-- ==== Sys2Proof/Word.lean ====
section
/-! DEFINITION. The command word and the register names that stand inside it (30_encoding.md R110 to R114). -/

namespace Sys2Proof

/-- A command word: "Every command is one 32-bit word" (R110). -/
abbrev Word := BitVec 32

/-- The name of one of the operand registers x0..x15 (R21, R111). -/
abbrev XReg := BitVec 4

/-- The name of one of the fixed-point registers q0..q31 (R23, R113). -/
abbrev QReg := BitVec 5

end Sys2Proof
end

