-- ==== Sys2Proof/Syntax.lean ====
section
/-! DEFINITION. The 26 commands of the opcode map (30_encoding.md R115), one constructor per row. -/

namespace Sys2Proof

/-- A command (R115). An operand is kept as the field of its format (R111 to R114): register names
`rd`, `ra`, `rb`, `rc`, `re`, `qd`, `qa`, `qb`; a width minus one `wm1`; a flag. -/
inductive Instr
  | nop
  | ctxclr
  | selsig (ra : XReg)
  | fecrst
  | pack (ra : XReg) (signed : Bool) (wm1 : BitVec 6)
  | packi (wm1 : BitVec 4) (imm : BitVec 16)
  | packsp (w : BitVec 16)
  | qscale (rd : XReg) (qa : QReg) (k : BitVec 7) (sc : Bool)
  | pwlq (rd ra : XReg) (up : Bool)
  | crc24 (ra rb : XReg) (cont : Bool)
  | crcput
  | conv (rd ra rb : XReg) (keep : Bool)
  | ilvw (ra rb : XReg)
  | ilvr (rd rb : XReg)
  | t2b (rd ra : XReg)
  | seek (ra : XReg)
  | adv
  | wtype (rd : XReg)
  | almidx (rd : XReg)
  | bcopy (rd ra rb : XReg)
  | tile (rd ra rb rc re : XReg)
  | mod (rd ra rb : XReg)
  | modofs (rd : XReg)
  | kepler (qd qa qb : QReg)
  | prop (ra rb : XReg)
  | reldly (qd : QReg)
deriving DecidableEq, Repr

end Sys2Proof
end

