-- ==== Sys2Proof/WellFormed.lean ====
section
/-! DEFINITION. Which commands have a legal word. Every operand but one fills its field exactly, so
the one check is the value check of `PACKI` (30_encoding.md R118). -/

namespace Sys2Proof

/-- R118: "the bits `imm16[15:w]` must all be 0", `w` the width `wm1 + 1` (1 to 16). -/
def packiFits (wm1 : BitVec 4) (imm : BitVec 16) : Bool :=
  decide (imm.toNat < 2 ^ (wm1.toNat + 1))

/-- The command has a legal command word (R117, R118). -/
def Instr.wellFormed : Instr → Bool
  | .nop => true
  | .ctxclr => true
  | .selsig _ => true
  | .fecrst => true
  | .pack _ _ _ => true
  | .packi wm1 imm => packiFits wm1 imm
  | .packsp _ => true
  | .qscale _ _ _ _ => true
  | .pwlq _ _ _ => true
  | .crc24 _ _ _ => true
  | .crcput => true
  | .conv _ _ _ _ => true
  | .ilvw _ _ => true
  | .ilvr _ _ => true
  | .t2b _ _ => true
  | .seek _ => true
  | .adv => true
  | .wtype _ => true
  | .almidx _ => true
  | .bcopy _ _ _ => true
  | .tile _ _ _ _ _ => true
  | .mod _ _ _ => true
  | .modofs _ => true
  | .kepler _ _ _ => true
  | .prop _ _ => true
  | .reldly _ => true

end Sys2Proof
end

