-- ==== Sys2Proof/Decode.lean ====
section
/-! DEFINITION. Decoding and encoding of command words (30_encoding.md R110 to R120). -/

namespace Sys2Proof

/-- Why a word is an illegal command (R117). -/
inductive Illegal
  /-- The opcode value is not in the table of R115. -/
  | reservedOpcode (op : BitVec 8)
  /-- The opcode is in the table and a must-be-zero bit is 1 (R116). -/
  | nonzeroReserved (mnemonic : String)
  /-- A `PACKI` whose value has a 1 at or above its width (R118). -/
  | packiValueTooWide (wm1 : BitVec 4) (imm : BitVec 16)
deriving DecidableEq, Repr

/-- Bits 31 to 24, the opcode in every format (R110). -/
def opcodeOf (w : Word) : BitVec 8 := w.extractLsb' 24 8

/-- The operand-register field whose lowest bit is `lo` (R111, R112, R114). -/
def xField (w : Word) (lo : Nat) : XReg := w.extractLsb' lo 4

/-- The fixed-point-register field whose lowest bit is `lo` (R113, R114). -/
def qField (w : Word) (lo : Nat) : QReg := w.extractLsb' lo 5

/-- The row test of R115: the word is the command exactly when `w AND mask = match`; a listed opcode
that fails it has a nonzero must-be-zero bit (R116). -/
def inRow (w matchBits mask : Word) (mnemonic : String) (i : Instr) : Except Illegal Instr :=
  if w &&& mask = matchBits then .ok i else .error (.nonzeroReserved mnemonic)

/-- `PACKI`: the row test, then the value check of R118 (R119). -/
def decodePacki (w : Word) : Except Illegal Instr :=
  if w &&& 0xFF0F0000 = 0x11000000 then
    if packiFits (w.extractLsb' 20 4) (w.extractLsb' 0 16) then
      .ok (.packi (w.extractLsb' 20 4) (w.extractLsb' 0 16))
    else .error (.packiValueTooWide (w.extractLsb' 20 4) (w.extractLsb' 0 16))
  else .error (.nonzeroReserved "PACKI")

/-- The decoder of R119, total over all 2^32 words: the opcode selects the row of R115, the row's
match and mask are tested, `PACKI` has its value check, then the fields are taken. -/
def decode (w : Word) : Except Illegal Instr :=
  match (opcodeOf w).toNat with
  | 0x00 => inRow w 0x00000000 0xFFFFFFFF "NOP" .nop
  | 0x01 => inRow w 0x01000000 0xFFFFFFFF "CTXCLR" .ctxclr
  | 0x02 => inRow w 0x02000000 0xFFF0FFFF "SELSIG" (.selsig (xField w 16))
  | 0x03 => inRow w 0x03000000 0xFFFFFFFF "FECRST" .fecrst
  | 0x10 => inRow w 0x10000000 0xFF0EFFC0 "PACK" (.pack (xField w 20) (w.getLsbD 16) (w.extractLsb' 0 6))
  | 0x11 => decodePacki w
  | 0x12 => inRow w 0x12000000 0xFFFF0000 "PACKSP" (.packsp (w.extractLsb' 0 16))
  | 0x13 => inRow w 0x13000000 0xFF00007F "QSCALE" (.qscale (xField w 20) (qField w 15) (w.extractLsb' 8 7) (w.getLsbD 7))
  | 0x14 => inRow w 0x14000000 0xFF00FFFE "PWLQ" (.pwlq (xField w 20) (xField w 16) (w.getLsbD 0))
  | 0x20 => inRow w 0x20000000 0xFFF00FFE "CRC24" (.crc24 (xField w 16) (xField w 12) (w.getLsbD 0))
  | 0x21 => inRow w 0x21000000 0xFFFFFFFF "CRCPUT" .crcput
  | 0x22 => inRow w 0x22000000 0xFF000FFE "CONV" (.conv (xField w 20) (xField w 16) (xField w 12) (w.getLsbD 0))
  | 0x23 => inRow w 0x23000000 0xFFF00FFF "ILVW" (.ilvw (xField w 16) (xField w 12))
  | 0x24 => inRow w 0x24000000 0xFF0F0FFF "ILVR" (.ilvr (xField w 20) (xField w 12))
  | 0x30 => inRow w 0x30000000 0xFF00FFFF "T2B" (.t2b (xField w 20) (xField w 16))
  | 0x31 => inRow w 0x31000000 0xFFF0FFFF "SEEK" (.seek (xField w 16))
  | 0x32 => inRow w 0x32000000 0xFFFFFFFF "ADV" .adv
  | 0x33 => inRow w 0x33000000 0xFF0FFFFF "WTYPE" (.wtype (xField w 20))
  | 0x34 => inRow w 0x34000000 0xFF0FFFFF "ALMIDX" (.almidx (xField w 20))
  | 0x35 => inRow w 0x35000000 0xFF000FFF "BCOPY" (.bcopy (xField w 20) (xField w 16) (xField w 12))
  | 0x36 => inRow w 0x36000000 0xFF00000F "TILE" (.tile (xField w 20) (xField w 16) (xField w 12) (xField w 8) (xField w 4))
  | 0x40 => inRow w 0x40000000 0xFF000FFF "MOD" (.mod (xField w 20) (xField w 16) (xField w 12))
  | 0x41 => inRow w 0x41000000 0xFF0FFFFF "MODOFS" (.modofs (xField w 20))
  | 0x50 => inRow w 0x50000000 0xFF0001FF "KEPLER" (.kepler (qField w 19) (qField w 14) (qField w 9))
  | 0x51 => inRow w 0x51000000 0xFFF00FFF "PROP" (.prop (xField w 16) (xField w 12))
  | 0x52 => inRow w 0x52000000 0xFF07FFFF "RELDLY" (.reldly (qField w 19))
  | _ => .error (.reservedOpcode (opcodeOf w))

/-! The encoder. -/

/-- A field placed with its lowest bit at bit `lo` of the word (R9, R120: `a << lo`). -/
def place {n : Nat} (lo : Nat) (v : BitVec n) : Word := v.setWidth 32 <<< lo

/-- Format R (R111). -/
def formatR (op : BitVec 8) (rd ra rb rc re : XReg) (fl0 : Bool) : Word :=
  place 24 op ||| place 20 rd ||| place 16 ra ||| place 12 rb ||| place 8 rc ||| place 4 re |||
    place 0 (BitVec.ofBool fl0)

/-- Format I (R112). -/
def formatI (op : BitVec 8) (ra : BitVec 4) (fl0 : Bool) (imm : BitVec 16) : Word :=
  place 24 op ||| place 20 ra ||| place 16 (BitVec.ofBool fl0) ||| place 0 imm

/-- Format Q (R113). -/
def formatQ (op : BitVec 8) (qd qa qb : QReg) : Word :=
  place 24 op ||| place 19 qd ||| place 14 qa ||| place 9 qb

/-- Format S (R114). -/
def formatS (op : BitVec 8) (rd : XReg) (qa : QReg) (k : BitVec 7) (sc : Bool) : Word :=
  place 24 op ||| place 20 rd ||| place 15 qa ||| place 8 k ||| place 7 (BitVec.ofBool sc)

/-- The word of a command (the table of R120; the unused fields are 0, R116). -/
def encode : Instr → Word
  | .nop => formatR 0x00 0 0 0 0 0 false
  | .ctxclr => formatR 0x01 0 0 0 0 0 false
  | .selsig ra => formatR 0x02 0 ra 0 0 0 false
  | .fecrst => formatR 0x03 0 0 0 0 0 false
  | .pack ra s wm1 => formatI 0x10 ra s (wm1.setWidth 16)
  | .packi wm1 imm => formatI 0x11 wm1 false imm
  | .packsp w => formatI 0x12 0 false w
  | .qscale rd qa k sc => formatS 0x13 rd qa k sc
  | .pwlq rd ra u => formatR 0x14 rd ra 0 0 0 u
  | .crc24 ra rb c => formatR 0x20 0 ra rb 0 0 c
  | .crcput => formatR 0x21 0 0 0 0 0 false
  | .conv rd ra rb k => formatR 0x22 rd ra rb 0 0 k
  | .ilvw ra rb => formatR 0x23 0 ra rb 0 0 false
  | .ilvr rd rb => formatR 0x24 rd 0 rb 0 0 false
  | .t2b rd ra => formatR 0x30 rd ra 0 0 0 false
  | .seek ra => formatR 0x31 0 ra 0 0 0 false
  | .adv => formatR 0x32 0 0 0 0 0 false
  | .wtype rd => formatR 0x33 rd 0 0 0 0 false
  | .almidx rd => formatR 0x34 rd 0 0 0 0 false
  | .bcopy rd ra rb => formatR 0x35 rd ra rb 0 0 false
  | .tile rd ra rb rc re => formatR 0x36 rd ra rb rc re false
  | .mod rd ra rb => formatR 0x40 rd ra rb 0 0 false
  | .modofs rd => formatR 0x41 rd 0 0 0 0 false
  | .kepler qd qa qb => formatQ 0x50 qd qa qb
  | .prop ra rb => formatR 0x51 0 ra rb 0 0 false
  | .reldly qd => formatQ 0x52 qd 0 0

/-! The opcode map, row by row. -/

/-- One row of the opcode map: a word `w` is the command exactly when `w AND mask = bits` (R115). -/
structure OpcodeRow where
  mnemonic : String
  bits : Word
  mask : Word
deriving DecidableEq, Repr

/-- The 26 rows of R115, in its order. -/
def opcodeTable : List OpcodeRow :=
  [⟨"NOP", 0x00000000, 0xFFFFFFFF⟩,
   ⟨"CTXCLR", 0x01000000, 0xFFFFFFFF⟩,
   ⟨"SELSIG", 0x02000000, 0xFFF0FFFF⟩,
   ⟨"FECRST", 0x03000000, 0xFFFFFFFF⟩,
   ⟨"PACK", 0x10000000, 0xFF0EFFC0⟩,
   ⟨"PACKI", 0x11000000, 0xFF0F0000⟩,
   ⟨"PACKSP", 0x12000000, 0xFFFF0000⟩,
   ⟨"QSCALE", 0x13000000, 0xFF00007F⟩,
   ⟨"PWLQ", 0x14000000, 0xFF00FFFE⟩,
   ⟨"CRC24", 0x20000000, 0xFFF00FFE⟩,
   ⟨"CRCPUT", 0x21000000, 0xFFFFFFFF⟩,
   ⟨"CONV", 0x22000000, 0xFF000FFE⟩,
   ⟨"ILVW", 0x23000000, 0xFFF00FFF⟩,
   ⟨"ILVR", 0x24000000, 0xFF0F0FFF⟩,
   ⟨"T2B", 0x30000000, 0xFF00FFFF⟩,
   ⟨"SEEK", 0x31000000, 0xFFF0FFFF⟩,
   ⟨"ADV", 0x32000000, 0xFFFFFFFF⟩,
   ⟨"WTYPE", 0x33000000, 0xFF0FFFFF⟩,
   ⟨"ALMIDX", 0x34000000, 0xFF0FFFFF⟩,
   ⟨"BCOPY", 0x35000000, 0xFF000FFF⟩,
   ⟨"TILE", 0x36000000, 0xFF00000F⟩,
   ⟨"MOD", 0x40000000, 0xFF000FFF⟩,
   ⟨"MODOFS", 0x41000000, 0xFF0FFFFF⟩,
   ⟨"KEPLER", 0x50000000, 0xFF0001FF⟩,
   ⟨"PROP", 0x51000000, 0xFFF00FFF⟩,
   ⟨"RELDLY", 0x52000000, 0xFF07FFFF⟩]

/-- The instruction the decoder reads from the `nbits` low bits of `w`, numbered as the opcode table
numbers them; bits at and above `nbits` are 0. A command is one 32-bit word (R110) and SG2 stores no
program (R24), so the word is the decoder's argument as it stands. -/
def decodeTableWord (nbits w : Nat) : Option Instr :=
  match decode (BitVec.ofNat 32 (w % 2 ^ nbits)) with
  | .ok i => some i
  | .error _ => none

end Sys2Proof
end

