-- ==== Sys2Proof/Config.lean ====
section
/-! DEFINITION. What an implementation fixes (00_scope.md R6), the names of the memory spaces
(20_memory.md R80), and the one free value of the model: what a memory element that nothing has
written holds (20_memory.md R99). -/

namespace Sys2Proof

/-- The eight memory spaces of R80. -/
inductive Space
  | bm | cm | sm | istore | pft | ait | qt | scat
deriving DecidableEq, Repr

/-- The OPEN parameters of R6 (`NCTX`, `BM_BITS`, `CM_WORDS`, `SM_SAMPLES`, `NSIG`). The model takes
them as data: `State` carries one `Params`, no step changes it. -/
structure Params where
  nctx : Nat
  bmBits : Nat
  cmWords : Nat
  smSamples : Nat
  nsig : Nat
deriving DecidableEq, Repr

/-- The bounds R6 puts on the OPEN parameters. -/
abbrev Params.Legal (p : Params) : Prop :=
  1 ≤ p.nctx ∧ (4096 ≤ p.bmBits ∧ p.bmBits ≤ 2 ^ 32) ∧ (1 ≤ p.cmWords ∧ p.cmWords ≤ 2 ^ 32) ∧
    (1 ≤ p.smSamples ∧ p.smSamples ≤ 2 ^ 32) ∧ (1 ≤ p.nsig ∧ p.nsig ≤ 65536)

namespace Config

/-- DESIGN CHOICE (log 1, unsafe for a claim about this one value): the OPEN parameters of the
machine that `State.reset` builds; the values 95_test_vectors.md uses. Statements are made for
every legal `Params`. -/
def params : Params :=
  { nctx := 2, bmBits := 8192, cmWords := 4096, smSamples := 4096, nsig := 8 }

/-- `ILV_MAX` (R6). -/
def ilvMax : Nat := 2048
/-- `PFT_SLOTS` (R6). -/
def pftSlots : Nat := 64
/-- `AIT_SLOTS` (R6). -/
def aitSlots : Nat := 64
/-- `QT_SEGS` (R6). -/
def qtSegs : Nat := 8
/-- `PI_Q` = ⌊π·2^64⌋ (R6, R145). -/
def piQ : Int := 0x3243F6A8885A308D3
/-- `TWO_PI_Q` (R145). -/
def twoPiQ : Int := 0x6487ED5110B4611A6
/-- `HALF_PI_Q` (R145). -/
def halfPiQ : Int := 0x1921FB54442D18469
/-- `ONE` = 2^64 (R140). -/
def one : Int := 0x10000000000000000
/-- `KTOL` = 2^24, the value 2^-40 (R6, R150). -/
def ktol : Int := 0x1000000
/-- `MAXIT` (R6, R150). -/
def maxit : Nat := 64
/-- `NTERMS` (R6, R147). -/
def nterms : Nat := 13
/-- `WEEK_S`, seconds in a week (R6, R14). -/
def weekS : Int := 604800
/-- The constant the read-only register `ID` reads as (R26). -/
def idValue : BitVec 32 := 0x53473207

/-- FREE VALUE (DEDUCED, log 2, unsafe where two reads must agree): the contents an element of a memory space has after the reset number
`resets` while nothing has written it (R99, R322: "unspecified"). `bank` is the context number of a
per-context space and 0 otherwise; `addr` is the host's element index. It has no body, so nothing
can be proved about a value of it. An element of a space of fewer than 64 bits takes the low bits. -/
opaque powerOn (resets : Nat) (sp : Space) (bank addr : Nat) : BitVec 64

end Config
end Sys2Proof
end

