-- ==== Sys2Proof/Machine/State.lean ====
section
/-! DEFINITION. The state of SG2 (10_state.md, 20_memory.md), the host's transactions (00_scope.md R8)
and the state after reset (70_reset_and_hazards.md R321). -/

namespace Sys2Proof.Machine

/-- SG2 never stops: a fault of the block is a completion status and a record in the state (R290,
R291, R295), taken as a next state. So no step ends in a fault, and this type has no constructor
(DESIGN CHOICE, log 11, safe). -/
inductive Fault
deriving DecidableEq, Repr

/-- Why a step has no meaning. -/
inductive Refusal
  /-- An instruction this model has not reached. No arm of `exec` uses it. Safe. -/
  | notModelled (mnemonic : String)
  /-- Raised by a `RegRead` or `RegWrite` whose register number no rule defines: "a model must refuse
  it" (R55). Safe. -/
  | undefinedRegister (number : Nat)
  /-- Raised by a `SpaceRead` or `SpaceWrite` whose index is not below the size of the space, or which
  names an undefined field of SCAT: "a model must refuse it" (R92, R85). Safe. -/
  | undefinedElement (sp : Space) (index : Nat)
  /-- Raised by the host procedure `GENSLICE` when the slice's end lies before its start: "the host
  must not start it" (R334 (c), U9). No step of the machine raises it. Safe. -/
  | sliceEndsBeforeStart
deriving DecidableEq, Repr

/-- One memory space: the elements something has written, as (address, element) pairs with strictly
rising addresses (`Memory.wf`). An address that is not listed has no value of its own (R99): what a
read of it yields is the free value `Config.powerOn`. -/
abbrev Memory (α : Type) := List (Nat × α)

/-- One complex sample of SM (R83). -/
structure Sample where
  i : BitVec 32
  q : BitVec 32
deriving DecidableEq, Repr

/-- One of the two navigation bit streams of the modulation descriptor (R52). -/
structure NavStream where
  nb : BitVec 32
  nk : BitVec 64
  nc : BitVec 32
  brm : BitVec 32
deriving DecidableEq, Repr

/-- One of the four components of the modulation descriptor (R53). -/
structure Component where
  cb : BitVec 32
  cl : BitVec 32
  sb : BitVec 32
  sl : BitVec 16
  ds : BitVec 2
deriving DecidableEq, Repr

/-- One bank of per-context registers with its three per-context memory spaces (R40, R41). -/
structure Context where
  sigt : BitVec 16
  sigv : BitVec 1
  fsr : BitVec 8
  finfo : BitVec 32
  wp : BitVec 32
  br : BitVec 32
  ppb : BitVec 16
  npp : BitVec 2
  pgs : BitVec 7
  sfs : BitVec 7
  convcfg : BitVec 17
  ilvcfg : BitVec 32
  sf : BitVec 6
  pg : BitVec 6
  pp : BitVec 1
  boff : BitVec 16
  csr : BitVec 6
  iwr : BitVec 11
  ird : BitVec 11
  crcr : BitVec 24
  spc : BitVec 8
  mflags : BitVec 1
  ncomp : BitVec 3
  strA : NavStream
  strB : NavStream
  comp : Vector Component 4
  istore : Memory Bool
  pft : Memory (BitVec 16)
  ait : Memory (BitVec 8)
deriving DecidableEq, Repr

/-- What the host can do to the block: the five transactions of R8, and the reset of R320, "an event
of the environment, outside the five transactions". A register value is given at the width of the
widest register (128 bits, R23; DESIGN CHOICE, log 14, safe); a memory element at 64 bits (DESIGN
CHOICE, log 5, unsafe). -/
inductive HostEvent
  | regWrite (number : Nat) (v : BitVec 128)
  | regRead (number : Nat)
  | spaceWrite (sp : Space) (index : Nat) (v : BitVec 64)
  | spaceRead (sp : Space) (index : Nat)
  | cmd (w : Word)
  | reset
deriving DecidableEq, Repr

/-- What a transaction gives back to the host: a value read, or the completion status of a `Cmd`. -/
inductive Response
  | value (v : BitVec 128)
  | status (code : BitVec 8)
deriving DecidableEq, Repr

/-- The whole state. The first block is the architectural state of R20; the second block holds the
model's own fields: the parameters of R6 (never changed), the number of resets so far (it selects the
free contents of unwritten memory), and the host's side: the transactions still to come (R57) and the
answers given so far, oldest first (R337) (DESIGN CHOICE, logs 1, 3 and 4). -/
structure State where
  x : Vector (BitVec 64) 16
  q : Vector (BitVec 128) 32
  ctx : BitVec 16
  status : BitVec 8
  tickHz : BitVec 64
  maxtt : BitVec 64
  crcPoly : BitVec 24
  spare : BitVec 64
  splen : BitVec 7
  kiter : BitVec 8
  lastst : BitVec 8
  qtn : BitVec 4
  banks : Memory Context
  bm : Memory Bool
  cm : Memory (BitVec 16)
  sm : Memory Sample
  qt : Memory (BitVec 32)
  scat : Memory (BitVec 32)
  params : Params
  resets : Nat
  pending : List HostEvent
  responses : List Response
deriving DecidableEq, Repr

/-- A stream of the descriptor after reset: all 0 (R41, R56). -/
def NavStream.reset : NavStream := { nb := 0, nk := 0, nc := 0, brm := 0 }

/-- A component of the descriptor after reset: all 0 (R41, R56). -/
def Component.reset : Component := { cb := 0, cl := 0, sb := 0, sl := 0, ds := 0 }

/-- A context after reset: every banked register 0 (R41, R56), no element of its memory spaces
written (R99). -/
def Context.reset : Context :=
  { sigt := 0, sigv := 0, fsr := 0, finfo := 0, wp := 0, br := 0, ppb := 0, npp := 0, pgs := 0,
    sfs := 0, convcfg := 0, ilvcfg := 0, sf := 0, pg := 0, pp := 0, boff := 0, csr := 0, iwr := 0,
    ird := 0, crcr := 0, spc := 0, mflags := 0, ncomp := 0, strA := NavStream.reset,
    strB := NavStream.reset, comp := Vector.replicate 4 Component.reset, istore := [], pft := [],
    ait := [] }

/-- The machine with parameters `p` right after its reset number `n` (R321): every register 0 but
`SPLEN` = 1, and nothing written in any memory space (R322). -/
def State.resetWith (p : Params) (n : Nat) : State :=
  { x := Vector.replicate 16 0, q := Vector.replicate 32 0, ctx := 0, status := 0, tickHz := 0,
    maxtt := 0, crcPoly := 0, spare := 0, splen := 1, kiter := 0, lastst := 0, qtn := 0,
    banks := (List.range p.nctx).map fun k => (k, Context.reset),
    bm := [], cm := [], sm := [], qt := [], scat := [],
    params := p, resets := n, pending := [], responses := [] }

/-- The machine right after reset (R321), with the parameters of `Config.params` (log 1). -/
def State.reset : State := State.resetWith Config.params 0

end Sys2Proof.Machine
end

