-- ==== Sys2Proof/Machine/Flags.lean ====
section
/-! DEFINITION. The sticky flags of `STATUS` (10_state.md R28) and the conditions that raise them. -/

namespace Sys2Proof.Machine

/-- The six sticky flags (R28). -/
inductive Flag
  | fovf | qovf | divz | noconv | iovf | negsqrt
deriving DecidableEq, Repr

/-- The flag's bit of `STATUS` (R28). -/
def Flag.bit : Flag → Nat
  | .fovf => 0
  | .qovf => 1
  | .divz => 2
  | .noconv => 3
  | .iovf => 4
  | .negsqrt => 5

/-- The flag alone, as a value of `STATUS`. -/
def Flag.mask (f : Flag) : BitVec 8 := 1#8 <<< f.bit

/-- `flag(F)` of R11, made when `c` holds: "A command sets a flag and never clears one" (R28). -/
def raiseIf (f : Flag) (c : Bool) (st : BitVec 8) : BitVec 8 :=
  if c then st ||| f.mask else st

/-- `STATUS` after `RegWrite(0x042, m)`: it "clears every flag whose bit is 1 in m" (R28). -/
def clearFlags (st m : BitVec 8) : BitVec 8 := st &&& ~~~ m

/-- The integer is a value of a signed `n`-bit register (n ≥ 1): −2^(n−1) ≤ v < 2^(n−1). -/
def fitsS (n : Nat) (v : Int) : Bool := decide (-(2 ^ (n - 1)) ≤ v) && decide (v < 2 ^ (n - 1))

/-- The integer is a value of an unsigned `n`-bit register: 0 ≤ v < 2^n. -/
def fitsU (n : Nat) (v : Int) : Bool := decide (0 ≤ v) && decide (v < 2 ^ n)

/-- The fit test of `PACK` (R180): unsigned when `S = 0`, the signed value of all 64 bits when
`S = 1`. -/
def packFits (signed : Bool) (w : Nat) (v : BitVec 64) : Bool :=
  if signed then fitsS w v.toInt else fitsU w v.toNat

end Sys2Proof.Machine
end

