-- ==== Sys2Proof/Machine/Operands.lean ====
section
/-! DEFINITION. Integer operations of the notation (00_scope.md R9), bit sequences (R10), and the
operand forms of commands (30_encoding.md R118, 45_system.md R284). -/

namespace Sys2Proof.Machine

/-- `x fdiv m`: ⌊x/m⌋ (R9). -/
def fdiv (x m : Int) : Int := Int.fdiv x m

/-- `x cdiv m`: ⌈x/m⌉ = −((−x) fdiv m) (R9). -/
def cdiv (x m : Int) : Int := -(Int.fdiv (-x) m)

/-- `wrap_N(v)`: the signed value of `v mod 2^N` (R9). -/
def wrapS (n : Nat) (v : Int) : Int := Int.bmod v (2 ^ n)

/-- The parity of the bits of `v` (R9). -/
def parity {n : Nat} (v : BitVec n) : Bool :=
  (List.range n).foldl (fun p i => xor p (v.getLsbD i)) false

/-- The low `w` bits of `v`, most significant first (R10): what `MemWrite` lays down (R11). -/
def msbBits (w v : Nat) : List Bool := (List.range w).map fun i => v.testBit (w - 1 - i)

/-- The unsigned value of a bit sequence, first bit most significant (R11, `MemRead`). -/
def bitsValue (bs : List Bool) : Nat := bs.foldl (fun acc b => 2 * acc + b.toNat) 0

/-- The range test of R86 in mathematical integers: `[a, a+n)` lies in a space of `size` elements
exactly when a + n ≤ size, for n = 0 too. -/
def inRange (a n size : Nat) : Bool := decide (a + n ≤ size)

/-- `x[i]`, the operand register as it stands (R11). -/
def State.xreg (s : State) (r : XReg) : BitVec 64 := s.x[r.toNat]'r.isLt

/-- `x[i]` read as an unsigned integer: an address, a count, a bit index (R118). -/
def State.xval (s : State) (r : XReg) : Nat := (s.xreg r).toNat

/-- `sext_64(x[i])`: an operand a rule reads as signed (R9, R286). -/
def State.xint (s : State) (r : XReg) : Int := (s.xreg r).toInt

/-- `q[i]` as a signed integer, standing for `q[i] / 2^64` (R11, R140). -/
def State.qval (s : State) (r : QReg) : Int := (s.q[r.toNat]'r.isLt).toInt

/-- The width of a field given as width minus one (R118). -/
def widthOf {n : Nat} (wm1 : BitVec n) : Nat := wm1.toNat + 1

end Sys2Proof.Machine
end

