-- ==== Sys2Proof/Machine/Ops.lean ====
section
/-! DEFINITION. The named operations over memory, registers and contexts, the taking of a fault
(60_exceptions.md R295, R296) and its counterpart of a return (R302). -/

namespace Sys2Proof.Machine

/-! Memory spaces. -/

/-- The element written at `a`, if anything has written one. -/
def Memory.get? {α : Type} (m : Memory α) (a : Nat) : Option α :=
  (m.find? fun c => c.1 == a).map Prod.snd

/-- Writes the elements `vs` at `a`, `a+1`, ... and leaves every other address alone. -/
def Memory.writeRange {α : Type} (m : Memory α) (a : Nat) (vs : List α) : Memory α :=
  m.filter (fun c => decide (c.1 < a)) ++ vs.zipIdx.map (fun p => (a + p.2, p.1)) ++
    m.filter (fun c => decide (a + vs.length ≤ c.1))

/-- Writes one element. -/
def Memory.put {α : Type} (m : Memory α) (a : Nat) (v : α) : Memory α := m.writeRange a [v]

/-- The canonical form: addresses strictly rising and below the size of the space. -/
abbrev Memory.wf {α : Type} (size : Nat) (m : Memory α) : Prop :=
  m.Pairwise (fun c d => c.1 < d.1) ∧ ∀ c ∈ m, c.1 < size

/-- `BM[a]`: one bit (R11, R81). -/
def State.bit (s : State) (a : Nat) : Bool :=
  (s.bm.get? a).getD ((Config.powerOn s.resets .bm 0 a).getLsbD 0)

/-- The bits of BM at `a` to `a+n−1`, in address order. -/
def State.bits (s : State) (a n : Nat) : List Bool := (List.range n).map fun i => s.bit (a + i)

/-- `MemRead(a, n)` (R11). -/
def State.memRead (s : State) (a n : Nat) : Nat := bitsValue (s.bits a n)

/-- Writes a run of bits of BM from address `a`. -/
def State.writeBits (s : State) (a : Nat) (bs : List Bool) : State :=
  { s with bm := s.bm.writeRange a bs }

/-- `MemWrite(a, n, v)`: the low `n` bits of `v`, most significant first (R11). -/
def State.memWrite (s : State) (a n v : Nat) : State := s.writeBits a (msbBits n v)

/-- `CM[a]`: one signed 16-bit word (R82). -/
def State.codeWord (s : State) (a : Nat) : BitVec 16 :=
  (s.cm.get? a).getD ((Config.powerOn s.resets .cm 0 a).setWidth 16)

/-- `SM[j]`: one complex sample (R83). -/
def State.sample (s : State) (a : Nat) : Sample :=
  (s.sm.get? a).getD
    { i := (Config.powerOn s.resets .sm 0 a).extractLsb' 32 32,
      q := (Config.powerOn s.resets .sm 0 a).extractLsb' 0 32 }

/-- Writes a run of samples of SM from index `a`. -/
def State.writeSamples (s : State) (a : Nat) (vs : List Sample) : State :=
  { s with sm := s.sm.writeRange a vs }

/-- The width of field `f` of a quantiser segment: LO and STEP 32 bits, BASE and CNT 16 (R85). -/
def qtWidth (f : Nat) : Nat := if f < 2 then 32 else 16

/-- The width of field `f` of a catalog entry: VALID 1, SCHEME 2, NAVA 8, NAVB 8, CHIPRATE 32,
MODRATE 32 (R85). -/
def scatWidth (f : Nat) : Nat :=
  match f with
  | 0 => 1
  | 1 => 2
  | 2 => 8
  | 3 => 8
  | _ => 32

/-- The low `w` bits of a value, in a 32-bit cell. -/
def lowBits {n : Nat} (w : Nat) (v : BitVec n) : BitVec 32 := (v.setWidth w).setWidth 32

/-- Element `4s + f` of QT: field `f` of segment `s` (R85). -/
def State.qtElement (s : State) (k : Nat) : BitVec 32 :=
  lowBits (qtWidth (k % 4)) ((s.qt.get? k).getD ((Config.powerOn s.resets .qt 0 k).setWidth 32))

/-- Element `8i + f` of SCAT: field `f` of entry `i` (R85). -/
def State.scatElement (s : State) (k : Nat) : BitVec 32 :=
  lowBits (scatWidth (k % 8)) ((s.scat.get? k).getD ((Config.powerOn s.resets .scat 0 k).setWidth 32))

/-- A quantiser segment (R85, R185). -/
structure Segment where
  lo : Nat
  step : Nat
  base : Nat
  cnt : Nat
deriving DecidableEq, Repr

/-- `QT[i]` (R85). -/
def State.segment (s : State) (i : Nat) : Segment :=
  { lo := (s.qtElement (4 * i)).toNat, step := (s.qtElement (4 * i + 1)).toNat,
    base := (s.qtElement (4 * i + 2)).toNat, cnt := (s.qtElement (4 * i + 3)).toNat }

/-- A catalog entry, less the tags NAVA and NAVB, which "no rule reads" (R85). -/
structure CatalogEntry where
  valid : Bool
  scheme : Nat
  chipRate : Nat
  modRate : Nat
deriving DecidableEq, Repr

/-- `SCAT[i]` (R85). -/
def State.catalog (s : State) (i : Nat) : CatalogEntry :=
  { valid := decide (s.scatElement (8 * i) ≠ 0), scheme := (s.scatElement (8 * i + 1)).toNat,
    chipRate := (s.scatElement (8 * i + 4)).toNat, modRate := (s.scatElement (8 * i + 5)).toNat }

/-! Registers. -/

/-- `x[r] <- v`: writes `v mod 2^64`, a negative `v` in two's complement (R11, R286). -/
def State.setX (s : State) (r : XReg) (v : Int) : State :=
  { s with x := s.x.set r.toNat (BitVec.ofInt 64 v) r.isLt }

/-- `q[r] <- v`: writes `wrap_128(v)` (R11). -/
def State.setQ (s : State) (r : QReg) (v : Int) : State :=
  { s with q := s.q.set r.toNat (BitVec.ofInt 128 v) r.isLt }

/-- `STATUS` as a computation that raises flags left it. -/
def State.setStatus (s : State) (st : BitVec 8) : State := { s with status := st }

/-- `flag(F)` when `c` holds (R11, R28). -/
def State.flagIf (s : State) (f : Flag) (c : Bool) : State := s.setStatus (raiseIf f c s.status)

/-- `KITER <- it` (R33). -/
def State.setKiter (s : State) (it : Nat) : State := { s with kiter := BitVec.ofNat 8 it }

/-- `LASTST <- c` (R34, R291). -/
def State.setLastst (s : State) (c : BitVec 8) : State := { s with lastst := c }

/-! Contexts. -/

/-- The context numbered `k` (R40). -/
def State.bank (s : State) (k : Nat) : Context := (s.banks.get? k).getD Context.reset

/-- The current context: the one `CTX` selects (R27, R40). -/
def State.cur (s : State) : Context := s.bank s.ctx.toNat

/-- Replaces the current context (R40: "No command reads or writes a context other than the current
one"). -/
def State.setCur (s : State) (c : Context) : State := { s with banks := s.banks.put s.ctx.toNat c }

/-- `ISTORE[c]` of the current context (R84). -/
def State.istoreBit (s : State) (c : Nat) : Bool :=
  (s.cur.istore.get? c).getD ((Config.powerOn s.resets .istore s.ctx.toNat c).getLsbD 0)

/-- `PFT[p]` of the current context (R85). -/
def State.pftEntry (s : State) (p : Nat) : BitVec 16 :=
  (s.cur.pft.get? p).getD ((Config.powerOn s.resets .pft s.ctx.toNat p).setWidth 16)

/-- `AIT[n]` of the current context (R85). -/
def State.aitEntry (s : State) (n : Nat) : BitVec 8 :=
  (s.cur.ait.get? n).getD ((Config.powerOn s.resets .ait s.ctx.toNat n).setWidth 8)

/-- `WP <- (WP + w) mod 2^32` (R284, "the only post-modified address in SG2"). -/
def State.advanceWp (s : State) (w : Nat) : State :=
  s.setCur { s.cur with wp := BitVec.ofNat 32 (s.cur.wp.toNat + w) }

/-! Completion of a command. -/

/-- The faults a command can raise (R291), codes 1 to 7. -/
inductive Cause
  | unsupportedSignal | illegalCommand | bmRange | cmRange | smRange | config | modRange
deriving DecidableEq, Repr

/-- The completion status of a fault (R291). -/
def Cause.code : Cause → BitVec 8
  | .unsupportedSignal => 1
  | .illegalCommand => 2
  | .bmRange => 3
  | .cmRange => 4
  | .smRange => 5
  | .config => 6
  | .modRange => 7

/-- The completion status `CTX_FAULTED` (R291, R296). -/
def ctxFaultedCode : BitVec 8 := 8

/-- The current context is faulted: "A context whose FSR is not 0 is faulted" (R295). -/
def State.faulted (s : State) : Bool := decide (s.cur.fsr ≠ 0)

/-- Fault entry, "the whole of what a fault does" (R295): the record of the current context is made
when it holds none, `LASTST` takes the code, nothing else changes. -/
def State.enterFault (s : State) (c : Cause) (w : Word) : State :=
  (if s.faulted then s else s.setCur { s.cur with fsr := c.code, finfo := w }).setLastst c.code

/-- The counterpart of a return from a fault (R302): the record of the current context is cleared, and
with it the refusal of R296. -/
def State.clearFault (s : State) : State := s.setCur { s.cur with fsr := 0, finfo := 0 }

/-- A command of the current context, presented as the word `w` (R291, R296, R299): refused with
`CTX_FAULTED` when the context is faulted; else its rule's checks and effect, status 0; or the fault
its checks raise. The caller gives `encode` of the command for `w`, which is the word it was decoded
from (DEDUCED, log 10, safe). -/
def State.runCommand (s : State) (w : Word) (body : State → Except Cause State) : State :=
  if s.faulted then s.setLastst ctxFaultedCode
  else
    match body s with
    | .ok t => t.setLastst 0
    | .error c => s.enterFault c w

/-- A command that raises no fault and is executed in a faulted context too: `NOP`, `CTXCLR`, `KEPLER`,
`PROP`, `RELDLY` (R296). -/
def State.runExempt (s : State) (body : State → State) : State := (body s).setLastst 0

end Sys2Proof.Machine
end

