-- ==== Sys2Proof/Machine/FixedPoint.lean ====
section
/-! DEFINITION. The Q64.64 primitives and the Kepler iteration (40_orbit.md R140 to R150). A value is an
integer standing for `v / 2^64`; `FxM` carries `STATUS` along, which a primitive only ever adds to. -/

namespace Sys2Proof.Machine

/-- A computation that may raise sticky flags (R149). -/
abbrev FxM := StateM (BitVec 8)

/-- `flag(F)` when `c` holds. -/
def fxFlag (f : Flag) (c : Bool) : FxM Unit := modify (raiseIf f c)

/-- The value `wrap_128(v)`, with `flag(QOVF)` when `v` is outside [−2^127, 2^127) (R141, R28). -/
def fxReduce (v : Int) : FxM Int := do
  fxFlag .qovf (!fitsS 128 v)
  pure (wrapS 128 v)

/-- `fx_add` (R141). -/
def fxAdd (a b : Int) : FxM Int := fxReduce (a + b)

/-- `fx_sub` (R141). -/
def fxSub (a b : Int) : FxM Int := fxReduce (a - b)

/-- `fx_mul` (R142). -/
def fxMul (a b : Int) : FxM Int := fxReduce (fdiv (a * b) Config.one)

/-- `fx_div` (R143). -/
def fxDiv (a b : Int) : FxM Int :=
  if b = 0 then do
    fxFlag .divz true
    pure 0
  else fxReduce (fdiv (a * Config.one) b)

/-- The largest `r` below `r₀ + 2^b` with `r² ≤ n`, found bit by bit from bit `b − 1` down. -/
def isqrtFrom : Nat → Nat → Nat → Nat
  | 0, r, _ => r
  | b + 1, r, n => isqrtFrom b (if (r + 2 ^ b) * (r + 2 ^ b) ≤ n then r + 2 ^ b else r) n

/-- The integer square root: the largest `r` with `r² ≤ n`. -/
def isqrt (n : Nat) : Nat := isqrtFrom (Nat.log2 n / 2 + 1) 0 n

/-- `fx_sqrt` (R144). -/
def fxSqrt (a : Int) : FxM Int :=
  if a < 0 then do
    fxFlag .negsqrt true
    pure 0
  else pure (isqrt (a * Config.one).toNat)

/-- `wrap_pi` (R146): exact, no flag. -/
def wrapPi (a : Int) : Int := (a + Config.piQ - 1) % Config.twoPiQ - Config.piQ + 1

/-- The value of `fx_mul` inside the sine series, where "No step can overflow, so no flag is set"
(R147; DEDUCED, log 12, unsafe were that sentence wrong). -/
def mulValue (a b : Int) : Int := wrapS 128 (fdiv (a * b) Config.one)

/-- The terms k, k+1, ... of the sine series, `left` of them, from the term and the sum so far (R147). -/
def sinSeries (z2 : Int) : Nat → Int → Int → Int → Int
  | 0, _, _, sum => sum
  | left + 1, k, term, sum =>
    let t := fdiv (-(mulValue term z2)) ((2 * k) * (2 * k + 1))
    sinSeries z2 left (k + 1) t (sum + t)

/-- The reflection of the wrapped angle into the half period (R147). -/
def foldHalf (y : Int) : Int :=
  if y > Config.halfPiQ then Config.piQ - y
  else if y < -Config.halfPiQ then -Config.piQ - y
  else y

/-- `fx_sin` (R147). -/
def fxSin (a : Int) : Int :=
  let z := foldHalf (wrapPi a)
  wrapS 128 (sinSeries (mulValue z z) Config.nterms 1 z z)

/-- `fx_cos` (R148). -/
def fxCos (a : Int) : FxM Int := do
  let b ← fxAdd a Config.halfPiQ
  pure (fxSin b)

/-- What the Kepler iteration leaves: the last `E`, the iterations made, whether the tolerance was met. -/
structure KeplerRun where
  ea : Int
  it : Nat
  converged : Bool
deriving DecidableEq, Repr

/-- The loop of R150 for the eccentricity `e` and the wrapped mean anomaly `m`, with `fuel` iterations
left, `it` made so far and the present `E`. -/
def keplerLoop (e m : Int) : Nat → Nat → Int → FxM KeplerRun
  | 0, it, ea => pure { ea := ea, it := it, converged := false }
  | fuel + 1, it, ea => do
    let s := fxSin ea
    let c ← fxCos ea
    let f ← fxSub (← fxSub ea (← fxMul e s)) m
    let fp ← fxSub Config.one (← fxMul e c)
    let d ← fxDiv f fp
    let ea' ← fxSub ea d
    if d.natAbs ≤ Config.ktol.toNat then
      pure { ea := ea', it := it + 1, converged := true }
    else keplerLoop e m fuel (it + 1) ea'

/-- `kepler(M, e)` (R150): the result `wrap_pi(E)` and the number of iterations for `KITER`. -/
def kepler (manom e : Int) : FxM (Int × Nat) := do
  let m := wrapPi manom
  let r ← keplerLoop e m Config.maxit 0 (if m ≥ 0 then Config.piQ else -Config.piQ)
  fxFlag .noconv (!r.converged)
  pure (wrapPi r.ea, r.it)

end Sys2Proof.Machine
end

