-- ==== Sys2Proof/Machine/Packer.lean ====
section
/-! DEFINITION. The bit-field packer and scaling (41_packer.md): `PACK`, `PACKI`, `PACKSP`, `QSCALE`,
`PWLQ`. -/

namespace Sys2Proof.Machine

/-- A field of `w` bits laid at `WP`, most significant first, after its range check; `WP` advances
(R180, R181, R232). -/
def packField (w v : Nat) (s : State) : Except Cause State :=
  if inRange s.cur.wp.toNat w s.params.bmBits then
    .ok ((s.memWrite s.cur.wp.toNat w v).advanceWp w)
  else .error .bmRange

/-- The checks and effect of `PACK` (R180). -/
def packBody (ra : XReg) (signed : Bool) (wm1 : BitVec 6) (s : State) : Except Cause State :=
  packField (widthOf wm1) (s.xval ra)
    (s.flagIf .fovf (!packFits signed (widthOf wm1) (s.xreg ra)))

/-- `PACK xa, w` and `PACK.S xa, w` (R180). -/
def execPack (ra : XReg) (signed : Bool) (wm1 : BitVec 6) (s : State) :
    Host.Outcome State Fault Refusal :=
  .next (s.runCommand (encode (.pack ra signed wm1)) (packBody ra signed wm1))

/-- `PACKI v, w` (R181). -/
def execPacki (wm1 : BitVec 4) (imm : BitVec 16) (s : State) : Host.Outcome State Fault Refusal :=
  .next (s.runCommand (encode (.packi wm1 imm)) (packField (widthOf wm1) imm.toNat))

/-- The `w` spare bits of R182: the low `SPLEN` bits of `SPARE`, most significant first, repeated. -/
def spareBits (spare : BitVec 64) (splen w : Nat) : List Bool :=
  (List.range w).map fun i => spare.getLsbD ((splen - 1) - i % splen)

/-- The checks and effect of `PACKSP` (R182). -/
def packspBody (w : Nat) (s : State) : Except Cause State :=
  if s.splen.toNat < 1 || decide (64 < s.splen.toNat) then .error .config
  else if inRange s.cur.wp.toNat w s.params.bmBits then
    .ok ((s.writeBits s.cur.wp.toNat (spareBits s.spare s.splen.toNat w)).advanceWp w)
  else .error .bmRange

/-- `PACKSP w` (R182). -/
def execPacksp (w : BitVec 16) (s : State) : Host.Outcome State Fault Refusal :=
  .next (s.runCommand (encode (.packsp w)) (packspBody w.toNat))

/-- The nearest integer to (v/2^64)·2^k, ties toward plus infinity (R184). -/
def scaledRaw (v k : Int) : Int := fdiv (v + 2 ^ (63 - k).toNat) (2 ^ (64 - k).toNat)

/-- The value `QSCALE` scales: `q[qa]`, in semicircles under `SC` (R184). -/
def scaleOperand (v : Int) (sc : Bool) : FxM Int := if sc then fxDiv v Config.piQ else pure v

/-- The effect of `QSCALE` (R184). -/
def qscaleBody (rd : XReg) (qa : QReg) (k : BitVec 7) (sc : Bool) (s : State) : Except Cause State :=
  let v := (scaleOperand (s.qval qa) sc).run s.status
  let raw := scaledRaw v.1 k.toInt
  .ok (((s.setStatus v.2).flagIf .fovf (!fitsS 64 raw)).setX rd raw)

/-- `QSCALE xd, qa, k` and `QSCALE.SC xd, qa, k` (R184). -/
def execQscale (rd : XReg) (qa : QReg) (k : BitVec 7) (sc : Bool) (s : State) :
    Host.Outcome State Fault Refusal :=
  .next (s.runCommand (encode (.qscale rd qa k sc)) (qscaleBody rd qa k sc))

/-- "the largest s < QTN with LO_s ≤ v, if any" (R185), among the first `n` segments. -/
def selectSegment (seg : Nat → Segment) (v : Nat) : Nat → Option Nat
  | 0 => none
  | n + 1 => if (seg n).lo ≤ v then some n else selectSegment seg v n

/-- The steps from the segment's start to `v`, rounded down, or up under `U` (R185). -/
def segmentIndex (up : Bool) (d step : Nat) : Nat :=
  (if up then cdiv d step else fdiv d step).toNat

/-- The code of R185 and whether it was clamped. -/
def quantise (seg : Nat → Segment) (qtn v : Nat) (up : Bool) : Nat × Bool :=
  match selectSegment seg v qtn with
  | none => ((seg 0).base, true)
  | some i =>
    let idx := segmentIndex up (v - (seg i).lo) (seg i).step
    if idx < (seg i).cnt then ((seg i).base + idx, false)
    else if i = qtn - 1 then ((seg i).base + (seg i).cnt - 1, true)
    else ((seg (i + 1)).base, false)

/-- The checks and effect of `PWLQ` (R185). -/
def pwlqBody (rd ra : XReg) (up : Bool) (s : State) : Except Cause State :=
  let n := s.qtn.toNat
  if n < 1 || decide (8 < n) then .error .config
  else if (List.range n).any fun i => (s.segment i).step == 0 || (s.segment i).cnt == 0 then
    .error .config
  else
    let r := quantise s.segment n (s.xval ra) up
    .ok ((s.flagIf .fovf r.2).setX rd r.1)

/-- `PWLQ xd, xa` and `PWLQ.U xd, xa` (R185). -/
def execPwlq (rd ra : XReg) (up : Bool) (s : State) : Host.Outcome State Fault Refusal :=
  .next (s.runCommand (encode (.pwlq rd ra up)) (pwlqBody rd ra up))

end Sys2Proof.Machine
end

