-- ==== Sys2Proof/Machine/System.lean ====
section
/-! DEFINITION. The system commands (45_system.md R280 to R282): `NOP`, `CTXCLR`, `SELSIG`. -/

namespace Sys2Proof.Machine

/-- `NOP` (R280): changes nothing but `LASTST`, in a faulted context too. -/
def execNop (s : State) : Host.Outcome State Fault Refusal := .next (s.runExempt id)

/-- `CSR <- 0; IWR <- 0; IRD <- 0; CRCR <- 0` in the current context; `ISTORE` is not changed (R240,
R281). -/
def State.clearFec (s : State) : State :=
  s.setCur { s.cur with csr := 0, iwr := 0, ird := 0, crcr := 0 }

/-- `SIGT <- 0; SIGV <- 0` in the current context (R281). -/
def State.clearSignal (s : State) : State := s.setCur { s.cur with sigt := 0, sigv := 0 }

/-- `CTXCLR` (R281): restarts the current context. -/
def execCtxclr (s : State) : Host.Outcome State Fault Refusal :=
  .next <| s.runExempt fun s => s.clearFault.clearSignal.clearFec

/-- A catalog entry that is not valid, or whose scheme is not legal (R264, R282, R297). -/
def CatalogEntry.unsupported (e : CatalogEntry) : Bool := !e.valid || decide (e.scheme = 3)

/-- The checks and effect of `SELSIG` (R282). -/
def selsigBody (ra : XReg) (s : State) : Except Cause State :=
  if s.params.nsig ≤ s.xval ra then .error .unsupportedSignal
  else if (s.catalog (s.xval ra)).unsupported then .error .unsupportedSignal
  else .ok (s.setCur { s.cur with sigt := BitVec.ofNat 16 (s.xval ra), sigv := 1 })

/-- `SELSIG xa` (R282). -/
def execSelsig (ra : XReg) (s : State) : Host.Outcome State Fault Refusal :=
  .next (s.runCommand (encode (.selsig ra)) (selsigBody ra))

end Sys2Proof.Machine
end

