-- ==== Sys2Proof/Machine/Fec.lean ====
section
/-! DEFINITION. The FEC primitives (43_fec.md): `CRC24`, `CRCPUT`, `CONV`, `ILVW`, `ILVR`, `FECRST`. -/

namespace Sys2Proof.Machine

/-- The CRC step for one input bit (R230). -/
def crcStep (poly crc : BitVec 24) (b : Bool) : BitVec 24 :=
  if xor (crc.getLsbD 23) b then (crc <<< 1) ^^^ poly else crc <<< 1

/-- The remainder after the bits `bs`, first bit first (R231). -/
def crcBits (poly crc : BitVec 24) (bs : List Bool) : BitVec 24 := bs.foldl (crcStep poly) crc

/-- The checks and effect of `CRC24` (R231). -/
def crc24Body (ra rb : XReg) (cont : Bool) (s : State) : Except Cause State :=
  if inRange (s.xval ra) (s.xval rb) s.params.bmBits then
    .ok (s.setCur { s.cur with
      crcr := crcBits s.crcPoly (if cont then s.cur.crcr else 0) (s.bits (s.xval ra) (s.xval rb)) })
  else .error .bmRange

/-- `CRC24 xa, xb` and `CRC24.C xa, xb` (R231). -/
def execCrc24 (ra rb : XReg) (cont : Bool) (s : State) : Host.Outcome State Fault Refusal :=
  .next (s.runCommand (encode (.crc24 ra rb cont)) (crc24Body ra rb cont))

/-- `CRCPUT` (R232): the 24 bits of `CRCR` at `WP`. -/
def execCrcput (s : State) : Host.Outcome State Fault Refusal :=
  .next (s.runCommand (encode .crcput) fun s => packField 24 s.cur.crcr.toNat s)

/-- `G1 = CONVCFG[6:0]` (R47). -/
def convG1 (cfg : BitVec 17) : BitVec 7 := cfg.extractLsb' 0 7
/-- `G2 = CONVCFG[14:8]` (R47). -/
def convG2 (cfg : BitVec 17) : BitVec 7 := cfg.extractLsb' 8 7
/-- `NEG2 = CONVCFG[16]` (R47). -/
def convNeg2 (cfg : BitVec 17) : Bool := cfg.getLsbD 16

/-- The window `{u, CSR}` of R233: the present input at bit 6. -/
def convWindow (csr : BitVec 6) (u : Bool) : BitVec 7 := BitVec.cons u csr

/-- The encoder step for one input bit (R233): the new `CSR`, then `o1` and `o2`. -/
def convStep (cfg : BitVec 17) (csr : BitVec 6) (u : Bool) : BitVec 6 × Bool × Bool :=
  ((convWindow csr u).extractLsb' 1 6, parity (convWindow csr u &&& convG1 cfg),
    xor (parity (convWindow csr u &&& convG2 cfg)) (convNeg2 cfg))

/-- The encoder over a run of input bits (R234): the final `CSR` and the symbols, `o1` before `o2`. -/
def convRun (cfg : BitVec 17) : BitVec 6 → List Bool → BitVec 6 × List Bool
  | csr, [] => (csr, [])
  | csr, u :: us =>
    let st := convStep cfg csr u
    let rest := convRun cfg st.1 us
    (rest.1, st.2.1 :: st.2.2 :: rest.2)

/-- The checks and effect of `CONV` (R234): the input is read whole before any output is written. -/
def convBody (rd ra rb : XReg) (keep : Bool) (s : State) : Except Cause State :=
  if inRange (s.xval ra) (s.xval rb) s.params.bmBits &&
      inRange (s.xval rd) (2 * s.xval rb) s.params.bmBits then
    let r := convRun s.cur.convcfg (if keep then s.cur.csr else 0) (s.bits (s.xval ra) (s.xval rb))
    .ok ((s.setCur { s.cur with csr := r.1 }).writeBits (s.xval rd) r.2)
  else .error .bmRange

/-- `CONV xd, xa, xb` and `CONV.K xd, xa, xb` (R234). -/
def execConv (rd ra rb : XReg) (keep : Bool) (s : State) : Host.Outcome State Fault Refusal :=
  .next (s.runCommand (encode (.conv rd ra rb keep)) (convBody rd ra rb keep))

/-- `ROWS = ILVCFG[10:0]` (R48). -/
def ilvRows (cfg : BitVec 32) : Nat := (cfg.extractLsb' 0 11).toNat
/-- `COLS = ILVCFG[26:16]` (R48). -/
def ilvCols (cfg : BitVec 32) : Nat := (cfg.extractLsb' 16 11).toNat
/-- `DIR = ILVCFG[31]` (R48). -/
def ilvDir (cfg : BitVec 32) : Bool := cfg.getLsbD 31
/-- The block size `N = ROWS·COLS` (R48). -/
def ilvSize (cfg : BitVec 32) : Nat := ilvRows cfg * ilvCols cfg

/-- The permutation of R236: output position `o` takes the input bit of position `π(o)`. -/
def ilvPerm (rows cols : Nat) (dir : Bool) (o : Nat) : Nat :=
  if dir then o % rows * cols + o / rows else o % cols * rows + o / cols

/-- The configuration `ILVW` and `ILVR` refuse (R237, R238, R293). -/
def Context.badInterleaver (c : Context) : Bool :=
  decide (ilvRows c.ilvcfg = 0) || decide (ilvCols c.ilvcfg = 0) ||
    decide (Config.ilvMax < ilvSize c.ilvcfg) || decide (ilvSize c.ilvcfg ≤ c.iwr.toNat) ||
    decide (ilvSize c.ilvcfg ≤ c.ird.toNat)

/-- Writes the bits at the cells `start mod n`, `(start+1) mod n`, ... in order (R237). -/
def ringWrite (n : Nat) : Nat → List Bool → Memory Bool → Memory Bool
  | _, [], m => m
  | start, b :: bs, m => ringWrite n (start + 1) bs (m.put (start % n) b)

/-- The checks and effect of `ILVW` (R237). -/
def ilvwBody (ra rb : XReg) (s : State) : Except Cause State :=
  if s.cur.badInterleaver then .error .config
  else if inRange (s.xval ra) (s.xval rb) s.params.bmBits then
    .ok (s.setCur { s.cur with
      istore := ringWrite (ilvSize s.cur.ilvcfg) s.cur.iwr.toNat (s.bits (s.xval ra) (s.xval rb)) s.cur.istore
      iwr := BitVec.ofNat 11 ((s.cur.iwr.toNat + s.xval rb) % ilvSize s.cur.ilvcfg) })
  else .error .bmRange

/-- `ILVW xa, xb` (R237). -/
def execIlvw (ra rb : XReg) (s : State) : Host.Outcome State Fault Refusal :=
  .next (s.runCommand (encode (.ilvw ra rb)) (ilvwBody ra rb))

/-- The bits `ILVR` reads: `ISTORE[π((IRD + i) mod N)]` (R238). -/
def State.interleaved (s : State) (n : Nat) : List Bool :=
  (List.range n).map fun i =>
    s.istoreBit (ilvPerm (ilvRows s.cur.ilvcfg) (ilvCols s.cur.ilvcfg) (ilvDir s.cur.ilvcfg)
      ((s.cur.ird.toNat + i) % ilvSize s.cur.ilvcfg))

/-- The checks and effect of `ILVR` (R238). -/
def ilvrBody (rd rb : XReg) (s : State) : Except Cause State :=
  if s.cur.badInterleaver then .error .config
  else if inRange (s.xval rd) (s.xval rb) s.params.bmBits then
    .ok ((s.setCur { s.cur with
      ird := BitVec.ofNat 11 ((s.cur.ird.toNat + s.xval rb) % ilvSize s.cur.ilvcfg) }).writeBits
        (s.xval rd) (s.interleaved (s.xval rb)))
  else .error .bmRange

/-- `ILVR xd, xb` (R238). -/
def execIlvr (rd rb : XReg) (s : State) : Host.Outcome State Fault Refusal :=
  .next (s.runCommand (encode (.ilvr rd rb)) (ilvrBody rd rb))

/-- `FECRST` (R240). -/
def execFecrst (s : State) : Host.Outcome State Fault Refusal :=
  .next (s.runCommand (encode .fecrst) fun s => .ok s.clearFec)

end Sys2Proof.Machine
end

