-- ==== Sys2Proof/Machine/Sequencer.lean ====
section
/-! DEFINITION. The frame cursor, the table lookups and slice extraction (42_sequencer.md): `T2B`, `SEEK`,
`ADV`, `WTYPE`, `ALMIDX`, `BCOPY`, `TILE`. -/

namespace Sys2Proof.Machine

/-- `TICK_HZ` is not legal: 0, or 2^63 and above (R29, R293). -/
def State.badTick (s : State) : Bool :=
  decide (s.tickHz.toNat = 0) || decide (2 ^ 63 ≤ s.tickHz.toNat)

/-- The index of the first bit whose emission starts at or after `t` ticks (R201). -/
def timeToBit (t : Int) (br tickHz : Nat) : Int := cdiv (t * br) tickHz

/-- The checks and effect of `T2B` (R201). -/
def t2bBody (rd ra : XReg) (s : State) : Except Cause State :=
  if s.badTick || decide (s.cur.br.toNat = 0) then .error .config
  else
    let k := timeToBit (s.xint ra) s.cur.br.toNat s.tickHz.toNat
    .ok ((s.flagIf .iovf (!fitsS 64 k)).setX rd k)

/-- `T2B xd, xa` (R201). -/
def execT2b (rd ra : XReg) (s : State) : Host.Outcome State Fault Refusal :=
  .next (s.runCommand (encode (.t2b rd ra)) (t2bBody rd ra))

/-- `NPP ∉ {1, 2}` or `PGS ∉ 1..64` or `SFS ∉ 1..64` (R203, R293). -/
def Context.badGeometry (c : Context) : Bool :=
  !(decide (c.npp.toNat = 1) || decide (c.npp.toNat = 2)) ||
    (decide (c.pgs.toNat < 1) || decide (64 < c.pgs.toNat)) ||
    (decide (c.sfs.toNat < 1) || decide (64 < c.sfs.toNat))

/-- The cursor `SEEK` computes for the stream bit index `k` (R202). -/
def Context.seekTo (c : Context) (k : Nat) : Context :=
  let idx := k / c.ppb.toNat
  { c with
    boff := BitVec.ofNat 16 (k % c.ppb.toNat)
    pp := BitVec.ofNat 1 (idx % c.npp.toNat)
    pg := BitVec.ofNat 6 (idx / c.npp.toNat % c.pgs.toNat)
    sf := BitVec.ofNat 6 (idx / (c.npp.toNat * c.pgs.toNat) % c.sfs.toNat) }

/-- The checks and effect of `SEEK` (R202). -/
def seekBody (ra : XReg) (s : State) : Except Cause State :=
  if decide (s.cur.ppb.toNat = 0) || s.cur.badGeometry then .error .config
  else .ok (s.setCur (s.cur.seekTo (s.xval ra)))

/-- `SEEK xa` (R202). -/
def execSeek (ra : XReg) (s : State) : Host.Outcome State Fault Refusal :=
  .next (s.runCommand (encode (.seek ra)) (seekBody ra))

/-- The cursor one page part on (R203): page part, then page, then subframe, with wraparound. -/
def Context.advance (c : Context) : Context :=
  if c.pp.toNat + 1 < c.npp.toNat then
    { c with boff := 0, pp := BitVec.ofNat 1 (c.pp.toNat + 1) }
  else if c.pg.toNat + 1 < c.pgs.toNat then
    { c with boff := 0, pp := 0, pg := BitVec.ofNat 6 (c.pg.toNat + 1) }
  else if c.sf.toNat + 1 < c.sfs.toNat then
    { c with boff := 0, pp := 0, pg := 0, sf := BitVec.ofNat 6 (c.sf.toNat + 1) }
  else { c with boff := 0, pp := 0, pg := 0, sf := 0 }

/-- The checks and effect of `ADV` (R203). -/
def advBody (s : State) : Except Cause State :=
  if s.cur.badGeometry then .error .config else .ok (s.setCur s.cur.advance)

/-- `ADV` (R203). -/
def execAdv (s : State) : Host.Outcome State Fault Refusal :=
  .next (s.runCommand (encode .adv) advBody)

/-- The word type of the present slot: the low byte of `PFT[PG]` in an even subframe, the high byte in an
odd one (R205, R85). -/
def State.wordType (s : State) : Nat :=
  if s.cur.sf.toNat % 2 = 0 then ((s.pftEntry s.cur.pg.toNat).extractLsb' 0 8).toNat
  else ((s.pftEntry s.cur.pg.toNat).extractLsb' 8 8).toNat

/-- `WTYPE xd` (R205). -/
def execWtype (rd : XReg) (s : State) : Host.Outcome State Fault Refusal :=
  .next (s.runCommand (encode (.wtype rd)) fun s => .ok (s.setX rd s.wordType))

/-- `ALMIDX xd` (R206): `x[rd] <- AIT[SF]`. -/
def execAlmidx (rd : XReg) (s : State) : Host.Outcome State Fault Refusal :=
  .next (s.runCommand (encode (.almidx rd)) fun s => .ok (s.setX rd (s.aitEntry s.cur.sf.toNat).toNat))

/-- The checks and effect of `BCOPY` (R207): the bits read are the old contents (R87). -/
def bcopyBody (rd ra rb : XReg) (s : State) : Except Cause State :=
  if inRange (s.xval ra) (s.xval rb) s.params.bmBits &&
      inRange (s.xval rd) (s.xval rb) s.params.bmBits then
    .ok (s.writeBits (s.xval rd) (s.bits (s.xval ra) (s.xval rb)))
  else .error .bmRange

/-- `BCOPY xd, xa, xb` (R207). -/
def execBcopy (rd ra rb : XReg) (s : State) : Host.Outcome State Fault Refusal :=
  .next (s.runCommand (encode (.bcopy rd ra rb)) (bcopyBody rd ra rb))

/-- `n` bits of the pattern of `len` bits at `base`, from stream bit `k0` on (R208): `k0 + k` does not
wrap. -/
def State.tileBits (s : State) (base len k0 n : Nat) : List Bool :=
  (List.range n).map fun k => s.bit (base + (k0 + k) % len)

/-- The checks and effect of `TILE` (R208). -/
def tileBody (rd ra rb rc re : XReg) (s : State) : Except Cause State :=
  if s.xval rb = 0 then .error .config
  else if inRange (s.xval ra) (s.xval rb) s.params.bmBits &&
      inRange (s.xval rd) (s.xval re) s.params.bmBits then
    .ok (s.writeBits (s.xval rd) (s.tileBits (s.xval ra) (s.xval rb) (s.xval rc) (s.xval re)))
  else .error .bmRange

/-- `TILE xd, xa, xb, xc, xe` (R208). -/
def execTile (rd ra rb rc re : XReg) (s : State) : Host.Outcome State Fault Refusal :=
  .next (s.runCommand (encode (.tile rd ra rb rc re)) (tileBody rd ra rb rc re))

end Sys2Proof.Machine
end

