-- ==== Sys2Proof/Machine/Modulation.lean ====
section
/-! DEFINITION. The modulator and code spreader (44_modulation.md): `MOD`, `MODOFS`. -/

namespace Sys2Proof.Machine

/-- The factor of a bit: `sgn(b) = 1 − 2b` (R262). -/
def sgn (b : Bool) : Int := if b then -1 else 1

/-- The stream `DS_k` selects: 1 A, 2 B, else none (R53). -/
def Context.streamOf (c : Context) (ds : BitVec 2) : Option NavStream :=
  match ds.toNat with
  | 1 => some c.strA
  | 2 => some c.strB
  | _ => none

/-- The components in use, k = 0 to `NCOMP − 1` (R51, R263). -/
def Context.components (c : Context) : List Component := c.comp.toList.take c.ncomp.toNat

/-- `NCOMP` and `SPC` are allowed for the scheme (the table of R264). -/
def schemeAllows (scheme ncomp spc : Nat) : Bool :=
  match scheme with
  | 0 => decide (ncomp = 1) && decide (spc = 1)
  | 1 => (decide (ncomp = 1) || decide (ncomp = 2)) && decide (1 ≤ spc)
  | 2 => decide (ncomp = 4) && decide (1 ≤ spc)
  | _ => false

/-- The code tables of the scheme are complex (R264). -/
def complexTables (scheme : Nat) : Bool := decide (scheme = 2)

/-- Words of CM per table entry: 2 for ALTBOC, else 1 (R265 check 4). -/
def wordsPerEntry (scheme : Nat) : Nat := if complexTables scheme then 2 else 1

/-- The time base of one `MOD` (R260): the numerator of sample `j`'s time is `origin + j·TICK_HZ`, over
`den = MODRATE·TICK_HZ`. -/
structure TimeBase where
  origin : Int
  tickHz : Nat
  den : Int
deriving DecidableEq, Repr

/-- `T0'·MODRATE`, with `T0' = T0` under `ABS` and 0 otherwise (R260). -/
def timeBase (abs : Bool) (t0 : Int) (modRate tickHz : Nat) : TimeBase :=
  { origin := (if abs then t0 else 0) * modRate, tickHz := tickHz, den := modRate * tickHz }

/-- `tnum_j` (R260). -/
def TimeBase.tnum (b : TimeBase) (j : Nat) : Int := b.origin + j * b.tickHz

/-- `e_j`, the code-table entries elapsed (R261). -/
def TimeBase.entries (b : TimeBase) (chipRate spc j : Nat) : Int :=
  fdiv (b.tnum j * chipRate * spc) b.den

/-- `off_js`, the position of the navigation bit inside the stream's window (R261); that `NK_s` is
unsigned is DEDUCED (log 9, unsafe). -/
def bitOffset (b : TimeBase) (abs : Bool) (st : NavStream) (j : Nat) : Int :=
  fdiv (b.tnum j * st.brm.toNat) b.den - (if abs then (st.nk.toNat : Int) else 0)

/-- `p_jk`, the entry of the primary table (R261). -/
def tableIndex (e : Int) (c : Component) : Nat := (e % c.cl.toNat).toNat

/-- `s_jk`, the chip of the secondary code (R261). -/
def chipIndex (e : Int) (c : Component) : Nat := (fdiv e c.cl.toNat % c.sl.toNat).toNat

/-- What `MOD` reads of the descriptor, the catalog and its operands (R265). -/
structure ModJob where
  ctx : Context
  entry : CatalogEntry
  base : TimeBase
  abs : Bool
deriving DecidableEq, Repr

/-- The job of a `MOD` whose slice starts at `t0` ticks. -/
def State.modJob (s : State) (t0 : Int) : ModJob :=
  let e := s.catalog s.cur.sigt.toNat
  let abs := s.cur.mflags.getLsbD 0
  { ctx := s.cur, entry := e, base := timeBase abs t0 e.modRate s.tickHz.toNat, abs := abs }

/-- The factor `d` of R263: the navigation bit's sign, +1 without a stream. -/
def dataFactor (s : State) (job : ModJob) (c : Component) (j : Nat) : Int :=
  match job.ctx.streamOf c.ds with
  | some st => sgn (s.bit (st.nb.toNat + (bitOffset job.base job.abs st j).toNat))
  | none => 1

/-- The factor `c` of R263: the secondary chip's sign, +1 without a secondary code. -/
def chipFactor (s : State) (c : Component) (e : Int) : Int :=
  if c.sl.toNat = 0 then 1 else sgn (s.bit (c.sb.toNat + chipIndex e c))

/-- `term_jk` of R263, its I and Q parts. -/
def modTerm (s : State) (job : ModJob) (c : Component) (j : Nat) : Int × Int :=
  let e := job.base.entries job.entry.chipRate job.ctx.spc.toNat j
  let f := dataFactor s job c j * chipFactor s c e
  if complexTables job.entry.scheme then
    (f * (s.codeWord (c.cb.toNat + 2 * tableIndex e c)).toInt,
      f * (s.codeWord (c.cb.toNat + 2 * tableIndex e c + 1)).toInt)
  else (f * (s.codeWord (c.cb.toNat + tableIndex e c)).toInt, 0)

/-- The sample of R263: the sum over the components in use. -/
def modSample (s : State) (job : ModJob) (j : Nat) : Sample :=
  let terms := job.ctx.components.map fun c => modTerm s job c j
  { i := BitVec.ofInt 32 (terms.map Prod.fst).sum, q := BitVec.ofInt 32 (terms.map Prod.snd).sum }

/-- No supported signal is selected (R297; check 1 of R265 and of R266). -/
def State.noSignal (s : State) : Bool :=
  decide (s.cur.sigv = 0) || (s.catalog s.cur.sigt.toNat).unsupported

/-- Check 2 of R265, for one component in use: `CL_k = 0`, `DS_k = 3`, or the selected stream has
`BRM_s = 0`. -/
def Context.badComponent (c : Context) (k : Component) : Bool :=
  decide (k.cl.toNat = 0) || decide (k.ds.toNat = 3) ||
    match c.streamOf k.ds with
    | some st => decide (st.brm.toNat = 0)
    | none => false

/-- Check 2 of R265. -/
def State.modConfigBad (s : State) : Bool :=
  let e := s.catalog s.cur.sigt.toNat
  s.badTick || decide (e.chipRate = 0) || decide (e.modRate = 0) || decide (s.cur.spc.toNat = 0) ||
    !schemeAllows e.scheme s.cur.ncomp.toNat s.cur.spc.toNat ||
    s.cur.components.any s.cur.badComponent

/-- Check 3 of R265, for one component in use: the selected stream's window and the secondary code lie
in BM. -/
def bmRangesOk (c : Context) (size : Nat) (k : Component) : Bool :=
  inRange k.sb.toNat k.sl.toNat size &&
    match c.streamOf k.ds with
    | some st => inRange st.nb.toNat st.nc.toNat size
    | none => true

/-- Check 4 of R265, for one component in use: the code table lies in CM. -/
def cmRangeOk (scheme size : Nat) (k : Component) : Bool :=
  inRange k.cb.toNat (wordsPerEntry scheme * k.cl.toNat) size

/-- The navigation bit at offset `off` is inside the stream's window: 0 ≤ off < NC_s (R261, R298). -/
def inWindow (st : NavStream) (off : Int) : Bool := decide (0 ≤ off) && decide (off < st.nc.toNat)

/-- Check 6 of R265, for one component in use and one sample. -/
def offsetOk (job : ModJob) (k : Component) (j : Nat) : Bool :=
  match job.ctx.streamOf k.ds with
  | some st => inWindow st (bitOffset job.base job.abs st j)
  | none => true

/-- The checks, in the order of R265, and the effect of `MOD`. -/
def modBody (rd ra rb : XReg) (s : State) : Except Cause State :=
  let job := s.modJob (s.xint ra)
  if s.noSignal then .error .unsupportedSignal
  else if s.modConfigBad then .error .config
  else if !s.cur.components.all (bmRangesOk s.cur s.params.bmBits) then .error .bmRange
  else if !s.cur.components.all (cmRangeOk job.entry.scheme s.params.cmWords) then .error .cmRange
  else if !inRange (s.xval rd) (s.xval rb) s.params.smSamples then .error .smRange
  else if !(List.range (s.xval rb)).all fun j => s.cur.components.all fun k => offsetOk job k j then
    .error .modRange
  else .ok (s.writeSamples (s.xval rd) ((List.range (s.xval rb)).map (modSample s job)))

/-- `MOD xd, xa, xb` (R265). -/
def execMod (rd ra rb : XReg) (s : State) : Host.Outcome State Fault Refusal :=
  .next (s.runCommand (encode (.mod rd ra rb)) (modBody rd ra rb))

/-- The integer sample offset ⌊MODRATE·MAXTT/TICK_HZ⌋ (R266). -/
def sampleOffset (modRate maxtt tickHz : Nat) : Int := fdiv (modRate * maxtt) tickHz

/-- The checks and effect of `MODOFS` (R266). -/
def modofsBody (rd : XReg) (s : State) : Except Cause State :=
  if s.noSignal then .error .unsupportedSignal
  else if s.badTick then .error .config
  else
    let v := sampleOffset (s.catalog s.cur.sigt.toNat).modRate s.maxtt.toNat s.tickHz.toNat
    .ok ((s.flagIf .iovf (!fitsU 64 v)).setX rd v)

/-- `MODOFS xd` (R266). -/
def execModofs (rd : XReg) (s : State) : Host.Outcome State Fault Refusal :=
  .next (s.runCommand (encode (.modofs rd)) (modofsBody rd))

end Sys2Proof.Machine
end

