-- ==== Sys2Proof/Machine/Orbit.lean ====
section
/-! DEFINITION. The ORB unit (40_orbit.md): `KEPLER`, `PROP`, `RELDLY`. "Order of operations is exactly as
written" (R159). Outside `0 ≤ e < 1` the rules are evaluated mechanically (R153;
DEDUCED, log 6, unsafe for a claim about such values). -/

namespace Sys2Proof.Machine

/-- The fixed roles of the fixed-point registers `PROP` and `RELDLY` read (R23). -/
structure Elements where
  sqrtA : Int
  ecc : Int
  i0 : Int
  idot : Int
  omega0 : Int
  omegadot : Int
  w : Int
  m0 : Int
  dn : Int
  sqrtGm : Int
  omegaE : Int
deriving DecidableEq, Repr

/-- The elements and constants in q0 to q8, q24 and q25 (R23). -/
def State.elements (s : State) : Elements :=
  { sqrtA := s.qval 0, ecc := s.qval 1, i0 := s.qval 2, idot := s.qval 3, omega0 := s.qval 4,
    omegadot := s.qval 5, w := s.qval 6, m0 := s.qval 7, dn := s.qval 8, sqrtGm := s.qval 24,
    omegaE := s.qval 25 }

/-- `TK` and `TOASOW` (R155); a `TICK_HZ` of 2^63 or more is read as it is (DEDUCED, log 13, unsafe). -/
def propTime (t toa : Int) (tickHz : Nat) : FxM (Int × Int) :=
  if tickHz = 0 then do
    fxFlag .divz true
    pure (0, 0)
  else do
    let tk ← fxReduce (fdiv ((t - toa) * Config.one) tickHz)
    pure (tk, fdiv ((toa % (Config.weekS * tickHz)) * Config.one) tickHz)

/-- What R156 computes: the semi-major axis, the mean motion, the eccentric anomaly, the iterations. -/
structure MeanMotion where
  a : Int
  n : Int
  ea : Int
  it : Nat
deriving DecidableEq, Repr

/-- Mean motion and mean anomaly (R156). -/
def propMean (el : Elements) (tk : Int) : FxM MeanMotion := do
  let a ← fxMul el.sqrtA el.sqrtA
  let a3 ← fxMul a el.sqrtA
  let n ← fxAdd (← fxDiv el.sqrtGm a3) el.dn
  let m := wrapPi (← fxAdd el.m0 (← fxMul n tk))
  let (ea, it) ← kepler m el.ecc
  pure { a := a, n := n, ea := ea, it := it }

/-- What R157 computes and the later rules read. -/
structure InPlane where
  sE : Int
  den : Int
  root : Int
  cu : Int
  su : Int
  xp : Int
  yp : Int
deriving DecidableEq, Repr

/-- In-plane position (R157). -/
def propPlane (el : Elements) (mm : MeanMotion) : FxM InPlane := do
  let sE := fxSin mm.ea
  let cE ← fxCos mm.ea
  let den ← fxSub Config.one (← fxMul el.ecc cE)
  let r ← fxMul mm.a den
  let root ← fxSqrt (← fxSub Config.one (← fxMul el.ecc el.ecc))
  let cv ← fxDiv (← fxSub cE el.ecc) den
  let sv ← fxDiv (← fxMul root sE) den
  let cw ← fxCos el.w
  let sw := fxSin el.w
  let cu ← fxSub (← fxMul cv cw) (← fxMul sv sw)
  let su ← fxAdd (← fxMul sv cw) (← fxMul cv sw)
  let xp ← fxMul r cu
  let yp ← fxMul r su
  pure { sE := sE, den := den, root := root, cu := cu, su := su, xp := xp, yp := yp }

/-- What R158 computes: the position and the rotation the velocity uses. -/
structure Rotated where
  ci : Int
  si : Int
  odk : Int
  cO : Int
  sO : Int
  ypci : Int
  px : Int
  py : Int
  pz : Int
deriving DecidableEq, Repr

/-- Rotation into the Earth-fixed frame (R158). -/
def propRotate (el : Elements) (tk toasow : Int) (p : InPlane) : FxM Rotated := do
  let inc ← fxAdd el.i0 (← fxMul el.idot tk)
  let ci ← fxCos inc
  let si := fxSin inc
  let odk ← fxSub el.omegadot el.omegaE
  let om := wrapPi (← fxSub (← fxAdd el.omega0 (← fxMul odk tk)) (← fxMul el.omegaE toasow))
  let cO ← fxCos om
  let sO := fxSin om
  let ypci ← fxMul p.yp ci
  let px ← fxSub (← fxMul p.xp cO) (← fxMul ypci sO)
  let py ← fxAdd (← fxMul p.xp sO) (← fxMul ypci cO)
  let pz ← fxMul p.yp si
  pure { ci := ci, si := si, odk := odk, cO := cO, sO := sO, ypci := ypci, px := px, py := py, pz := pz }

/-- Velocity (R159): (VX, VY, VZ). -/
def propVelocity (el : Elements) (mm : MeanMotion) (p : InPlane) (r : Rotated) :
    FxM (Int × Int × Int) := do
  let edot ← fxDiv mm.n p.den
  let vdot ← fxDiv (← fxMul p.root edot) p.den
  let rdot ← fxMul (← fxMul (← fxMul mm.a el.ecc) p.sE) edot
  let xpd ← fxSub (← fxMul rdot p.cu) (← fxMul p.yp vdot)
  let ypd ← fxAdd (← fxMul rdot p.su) (← fxMul p.xp vdot)
  let ypdci ← fxMul ypd r.ci
  let ypsi ← fxMul p.yp r.si
  let t3 ← fxMul (← fxMul ypsi r.sO) el.idot
  let t4 ← fxMul (← fxMul ypsi r.cO) el.idot
  let vx ← fxSub (← fxAdd (← fxSub (← fxMul xpd r.cO) (← fxMul ypdci r.sO)) t3) (← fxMul r.py r.odk)
  let vy ← fxAdd (← fxSub (← fxAdd (← fxMul xpd r.sO) (← fxMul ypdci r.cO)) t4) (← fxMul r.px r.odk)
  let vz ← fxAdd (← fxMul ypd r.si) (← fxMul r.ypci el.idot)
  pure (vx, vy, vz)

/-- The results of `PROP` (R160) and the iterations for `KITER`. -/
structure OrbitState where
  px : Int
  py : Int
  pz : Int
  vx : Int
  vy : Int
  vz : Int
  ea : Int
  tk : Int
  it : Nat
deriving DecidableEq, Repr

/-- `PROP`: R155 to R160 in that order, for the epoch `t` and the time of applicability `toa`. -/
def propagate (el : Elements) (t toa : Int) (tickHz : Nat) : FxM OrbitState := do
  let (tk, toasow) ← propTime t toa tickHz
  let mm ← propMean el tk
  let p ← propPlane el mm
  let r ← propRotate el tk toasow p
  let (vx, vy, vz) ← propVelocity el mm p r
  pure { px := r.px, py := r.py, pz := r.pz, vx := vx, vy := vy, vz := vz, ea := mm.ea, tk := tk,
         it := mm.it }

/-- `RELDLY` (R162): 2·sqrt(GM)/c · sqrtA · e · sin(E). -/
def relativisticDelay (sqrtA ecc ea sqrtGm clight : Int) : FxM Int := do
  let t1 ← fxDiv sqrtGm clight
  let t2 ← fxAdd t1 t1
  let t3 ← fxMul t2 sqrtA
  let t4 ← fxMul t3 ecc
  fxMul t4 (fxSin ea)

/-- `KEPLER qd, qa, qb` (R151). -/
def execKepler (qd qa qb : QReg) (s : State) : Host.Outcome State Fault Refusal :=
  .next <| s.runExempt fun s =>
    let r := (kepler (s.qval qa) (s.qval qb)).run s.status
    ((s.setStatus r.2).setQ qd r.1.1).setKiter r.1.2

/-- The results of `PROP` in q16 to q23, and `KITER` (R160). -/
def State.storeOrbit (s : State) (o : OrbitState) : State :=
  ((((((((s.setQ 16 o.px).setQ 17 o.py).setQ 18 o.pz).setQ 19 o.vx).setQ 20 o.vy).setQ 21 o.vz).setQ 22
    o.ea).setQ 23 o.tk).setKiter o.it

/-- `PROP ra, rb` (R154). -/
def execProp (ra rb : XReg) (s : State) : Host.Outcome State Fault Refusal :=
  .next <| s.runExempt fun s =>
    let r := (propagate s.elements (s.xint ra) (s.xint rb) s.tickHz.toNat).run s.status
    (s.setStatus r.2).storeOrbit r.1

/-- `RELDLY qd` (R162). -/
def execReldly (qd : QReg) (s : State) : Host.Outcome State Fault Refusal :=
  .next <| s.runExempt fun s =>
    let r := (relativisticDelay (s.qval 0) (s.qval 1) (s.qval 22) (s.qval 24) (s.qval 26)).run s.status
    (s.setStatus r.2).setQ qd r.1

end Sys2Proof.Machine
end

