-- ==== Sys2Proof/Machine/Dispatch.lean ====
section
/-! DEFINITION. The meaning of each command of the opcode map (30_encoding.md R115). -/

namespace Sys2Proof.Machine

def exec (i : Instr) (s : State) : Host.Outcome State Fault Refusal :=
  match i with
  | .nop => Sys2Proof.Machine.execNop s
  | .ctxclr => Sys2Proof.Machine.execCtxclr s
  | .selsig ra => Sys2Proof.Machine.execSelsig ra s
  | .fecrst => Sys2Proof.Machine.execFecrst s
  | .pack ra signed wm1 => Sys2Proof.Machine.execPack ra signed wm1 s
  | .packi wm1 imm => Sys2Proof.Machine.execPacki wm1 imm s
  | .packsp w => Sys2Proof.Machine.execPacksp w s
  | .qscale rd qa k sc => Sys2Proof.Machine.execQscale rd qa k sc s
  | .pwlq rd ra up => Sys2Proof.Machine.execPwlq rd ra up s
  | .crc24 ra rb cont => Sys2Proof.Machine.execCrc24 ra rb cont s
  | .crcput => Sys2Proof.Machine.execCrcput s
  | .conv rd ra rb keep => Sys2Proof.Machine.execConv rd ra rb keep s
  | .ilvw ra rb => Sys2Proof.Machine.execIlvw ra rb s
  | .ilvr rd rb => Sys2Proof.Machine.execIlvr rd rb s
  | .t2b rd ra => Sys2Proof.Machine.execT2b rd ra s
  | .seek ra => Sys2Proof.Machine.execSeek ra s
  | .adv => Sys2Proof.Machine.execAdv s
  | .wtype rd => Sys2Proof.Machine.execWtype rd s
  | .almidx rd => Sys2Proof.Machine.execAlmidx rd s
  | .bcopy rd ra rb => Sys2Proof.Machine.execBcopy rd ra rb s
  | .tile rd ra rb rc re => Sys2Proof.Machine.execTile rd ra rb rc re s
  | .mod rd ra rb => Sys2Proof.Machine.execMod rd ra rb s
  | .modofs rd => Sys2Proof.Machine.execModofs rd s
  | .kepler qd qa qb => Sys2Proof.Machine.execKepler qd qa qb s
  | .prop ra rb => Sys2Proof.Machine.execProp ra rb s
  | .reldly qd => Sys2Proof.Machine.execReldly qd s

end Sys2Proof.Machine
end

