-- ==== Sys2Proof/Machine/Registers.lean ====
section
/-! DEFINITION. The registers by number (10_state.md R25, R41) and the host's `RegRead` and `RegWrite`
(R26, R27, R28, R54, R55). -/

namespace Sys2Proof.Machine

/-- Which navigation stream of the descriptor (R52). -/
inductive StreamName
  | a | b
deriving DecidableEq, Repr

/-- Every register a register number names (R25, R41). A banked one is that of the current context. -/
inductive Reg
  | x (r : XReg) | q (r : QReg)
  | id | ctx | status | tickHz | maxtt | crcPoly | spare | splen | kiter | lastst | qtn
  | sigt | sigv | fsr | finfo | wp | br | ppb | npp | pgs | sfs | convcfg | ilvcfg
  | sf | pg | pp | boff | csr | iwr | ird | crcr | spc | mflags | ncomp
  | nb (s : StreamName) | nk (s : StreamName) | nc (s : StreamName) | brm (s : StreamName)
  | cb (k : Fin 4) | cl (k : Fin 4) | sb (k : Fin 4) | sl (k : Fin 4) | ds (k : Fin 4)
deriving DecidableEq, Repr

/-- Field `f` of component `k` (R41: numbers 0x0B0 + 8k + f, k = 0..3). -/
def componentReg (k : Fin 4) (f : Nat) : Option Reg :=
  match f with
  | 0 => some (.cb k)
  | 1 => some (.cl k)
  | 2 => some (.sb k)
  | 3 => some (.sl k)
  | 4 => some (.ds k)
  | _ => none

/-- The register a number names (R25, R41); every other number is undefined (R55). -/
def Reg.ofNumber (n : Nat) : Option Reg :=
  if n < 0x010 then some (.x (BitVec.ofNat 4 n))
  else if 0x020 ≤ n ∧ n < 0x040 then some (.q (BitVec.ofNat 5 (n - 0x020)))
  else if 0x0B0 ≤ n ∧ n < 0x0D0 then componentReg (Fin.ofNat 4 ((n - 0x0B0) / 8)) ((n - 0x0B0) % 8)
  else
    match n with
    | 0x040 => some .id
    | 0x041 => some .ctx
    | 0x042 => some .status
    | 0x043 => some .tickHz
    | 0x044 => some .maxtt
    | 0x045 => some .crcPoly
    | 0x046 => some .spare
    | 0x047 => some .splen
    | 0x048 => some .kiter
    | 0x049 => some .lastst
    | 0x04A => some .qtn
    | 0x080 => some .sigt
    | 0x081 => some .sigv
    | 0x082 => some .fsr
    | 0x083 => some .finfo
    | 0x084 => some .wp
    | 0x088 => some .br
    | 0x089 => some .ppb
    | 0x08A => some .npp
    | 0x08B => some .pgs
    | 0x08C => some .sfs
    | 0x08D => some .convcfg
    | 0x08E => some .ilvcfg
    | 0x090 => some .sf
    | 0x091 => some .pg
    | 0x092 => some .pp
    | 0x093 => some .boff
    | 0x094 => some .csr
    | 0x095 => some .iwr
    | 0x096 => some .ird
    | 0x097 => some .crcr
    | 0x0A0 => some .spc
    | 0x0A1 => some .mflags
    | 0x0A2 => some .ncomp
    | 0x0A4 => some (.nb .a)
    | 0x0A5 => some (.nk .a)
    | 0x0A6 => some (.nc .a)
    | 0x0A7 => some (.brm .a)
    | 0x0A8 => some (.nb .b)
    | 0x0A9 => some (.nk .b)
    | 0x0AA => some (.nc .b)
    | 0x0AB => some (.brm .b)
    | _ => none

/-- The width of a register in bits (R25, R41). -/
def Reg.width : Reg → Nat
  | .x _ => 64 | .q _ => 128
  | .id => 32 | .ctx => 16 | .status => 8 | .tickHz => 64 | .maxtt => 64 | .crcPoly => 24
  | .spare => 64 | .splen => 7 | .kiter => 8 | .lastst => 8 | .qtn => 4
  | .sigt => 16 | .sigv => 1 | .fsr => 8 | .finfo => 32 | .wp => 32 | .br => 32 | .ppb => 16
  | .npp => 2 | .pgs => 7 | .sfs => 7 | .convcfg => 17 | .ilvcfg => 32
  | .sf => 6 | .pg => 6 | .pp => 1 | .boff => 16 | .csr => 6 | .iwr => 11 | .ird => 11
  | .crcr => 24 | .spc => 8 | .mflags => 1 | .ncomp => 3
  | .nb _ => 32 | .nk _ => 64 | .nc _ => 32 | .brm _ => 32
  | .cb _ => 32 | .cl _ => 32 | .sb _ => 32 | .sl _ => 16 | .ds _ => 2

/-- "read-only to every agent but the block" (R304): `ID`, `KITER`, `LASTST`, `SIGT`, `SIGV`, `FSR`,
`FINFO`. -/
def Reg.readOnly : Reg → Bool
  | .id | .kiter | .lastst | .sigt | .sigv | .fsr | .finfo => true
  | _ => false

/-- The bits of `CONVCFG` that are not reserved (R47: bits 7 and 15 are). -/
def convcfgMask : BitVec 17 := 0x17F7F

/-- The bits of `ILVCFG` that are not reserved (R48). -/
def ilvcfgMask : BitVec 32 := 0x87FF07FF

/-- The navigation stream of that name (R52). -/
def Context.stream (c : Context) : StreamName → NavStream
  | .a => c.strA
  | .b => c.strB

/-- Replaces the navigation stream of that name. -/
def Context.setStream (c : Context) (n : StreamName) (v : NavStream) : Context :=
  match n with
  | .a => { c with strA := v }
  | .b => { c with strB := v }

/-- Replaces component `k`. -/
def Context.setComp (c : Context) (k : Fin 4) (v : Component) : Context :=
  { c with comp := c.comp.set k v }

/-- `RegRead` of a register: its value zero-extended (R54). `ID` reads as its constant (R26). -/
def State.readReg (s : State) : Reg → BitVec 128
  | .x r => (s.xreg r).setWidth 128
  | .q r => s.q[r.toNat]'r.isLt
  | .id => Config.idValue.setWidth 128
  | .ctx => s.ctx.setWidth 128
  | .status => s.status.setWidth 128
  | .tickHz => s.tickHz.setWidth 128
  | .maxtt => s.maxtt.setWidth 128
  | .crcPoly => s.crcPoly.setWidth 128
  | .spare => s.spare.setWidth 128
  | .splen => s.splen.setWidth 128
  | .kiter => s.kiter.setWidth 128
  | .lastst => s.lastst.setWidth 128
  | .qtn => s.qtn.setWidth 128
  | .sigt => s.cur.sigt.setWidth 128
  | .sigv => s.cur.sigv.setWidth 128
  | .fsr => s.cur.fsr.setWidth 128
  | .finfo => s.cur.finfo.setWidth 128
  | .wp => s.cur.wp.setWidth 128
  | .br => s.cur.br.setWidth 128
  | .ppb => s.cur.ppb.setWidth 128
  | .npp => s.cur.npp.setWidth 128
  | .pgs => s.cur.pgs.setWidth 128
  | .sfs => s.cur.sfs.setWidth 128
  | .convcfg => s.cur.convcfg.setWidth 128
  | .ilvcfg => s.cur.ilvcfg.setWidth 128
  | .sf => s.cur.sf.setWidth 128
  | .pg => s.cur.pg.setWidth 128
  | .pp => s.cur.pp.setWidth 128
  | .boff => s.cur.boff.setWidth 128
  | .csr => s.cur.csr.setWidth 128
  | .iwr => s.cur.iwr.setWidth 128
  | .ird => s.cur.ird.setWidth 128
  | .crcr => s.cur.crcr.setWidth 128
  | .spc => s.cur.spc.setWidth 128
  | .mflags => s.cur.mflags.setWidth 128
  | .ncomp => s.cur.ncomp.setWidth 128
  | .nb n => (s.cur.stream n).nb.setWidth 128
  | .nk n => (s.cur.stream n).nk.setWidth 128
  | .nc n => (s.cur.stream n).nc.setWidth 128
  | .brm n => (s.cur.stream n).brm.setWidth 128
  | .cb k => s.cur.comp[k].cb.setWidth 128
  | .cl k => s.cur.comp[k].cl.setWidth 128
  | .sb k => s.cur.comp[k].sb.setWidth 128
  | .sl k => s.cur.comp[k].sl.setWidth 128
  | .ds k => s.cur.comp[k].ds.setWidth 128

/-- `RegWrite` of a register: the low bits up to its width are stored, reserved bits and read-only
registers ignore the write (R54); `STATUS` clears the flags whose bit is 1 (R28); `CTX` takes a value
below `NCTX` and ignores any other (R27; that the whole value written is compared is DEDUCED, logs 7
and 16, unsafe for a value of 65536 or more). -/
def State.writeReg (s : State) (v : BitVec 128) : Reg → State
  | .x r => { s with x := s.x.set r.toNat (v.setWidth 64) r.isLt }
  | .q r => { s with q := s.q.set r.toNat v r.isLt }
  | .id => s
  | .ctx => if v.toNat < s.params.nctx then { s with ctx := v.setWidth 16 } else s
  | .status => s.setStatus (clearFlags s.status (v.setWidth 8))
  | .tickHz => { s with tickHz := v.setWidth 64 }
  | .maxtt => { s with maxtt := v.setWidth 64 }
  | .crcPoly => { s with crcPoly := v.setWidth 24 }
  | .spare => { s with spare := v.setWidth 64 }
  | .splen => { s with splen := v.setWidth 7 }
  | .kiter => s
  | .lastst => s
  | .qtn => { s with qtn := v.setWidth 4 }
  | .sigt => s
  | .sigv => s
  | .fsr => s
  | .finfo => s
  | .wp => s.setCur { s.cur with wp := v.setWidth 32 }
  | .br => s.setCur { s.cur with br := v.setWidth 32 }
  | .ppb => s.setCur { s.cur with ppb := v.setWidth 16 }
  | .npp => s.setCur { s.cur with npp := v.setWidth 2 }
  | .pgs => s.setCur { s.cur with pgs := v.setWidth 7 }
  | .sfs => s.setCur { s.cur with sfs := v.setWidth 7 }
  | .convcfg => s.setCur { s.cur with convcfg := v.setWidth 17 &&& convcfgMask }
  | .ilvcfg => s.setCur { s.cur with ilvcfg := v.setWidth 32 &&& ilvcfgMask }
  | .sf => s.setCur { s.cur with sf := v.setWidth 6 }
  | .pg => s.setCur { s.cur with pg := v.setWidth 6 }
  | .pp => s.setCur { s.cur with pp := v.setWidth 1 }
  | .boff => s.setCur { s.cur with boff := v.setWidth 16 }
  | .csr => s.setCur { s.cur with csr := v.setWidth 6 }
  | .iwr => s.setCur { s.cur with iwr := v.setWidth 11 }
  | .ird => s.setCur { s.cur with ird := v.setWidth 11 }
  | .crcr => s.setCur { s.cur with crcr := v.setWidth 24 }
  | .spc => s.setCur { s.cur with spc := v.setWidth 8 }
  | .mflags => s.setCur { s.cur with mflags := v.setWidth 1 }
  | .ncomp => s.setCur { s.cur with ncomp := v.setWidth 3 }
  | .nb n => s.setCur (s.cur.setStream n { s.cur.stream n with nb := v.setWidth 32 })
  | .nk n => s.setCur (s.cur.setStream n { s.cur.stream n with nk := v.setWidth 64 })
  | .nc n => s.setCur (s.cur.setStream n { s.cur.stream n with nc := v.setWidth 32 })
  | .brm n => s.setCur (s.cur.setStream n { s.cur.stream n with brm := v.setWidth 32 })
  | .cb k => s.setCur (s.cur.setComp k { s.cur.comp[k] with cb := v.setWidth 32 })
  | .cl k => s.setCur (s.cur.setComp k { s.cur.comp[k] with cl := v.setWidth 32 })
  | .sb k => s.setCur (s.cur.setComp k { s.cur.comp[k] with sb := v.setWidth 32 })
  | .sl k => s.setCur (s.cur.setComp k { s.cur.comp[k] with sl := v.setWidth 16 })
  | .ds k => s.setCur (s.cur.setComp k { s.cur.comp[k] with ds := v.setWidth 2 })

end Sys2Proof.Machine
end

