-- ==== Sys2Proof/Machine/Spaces.lean ====
section
/-! DEFINITION. The host's access to the memory spaces (20_memory.md R80, R85, R92). A 64-bit value
carries an element in its low bits; a sample of SM is `{I, Q}` (DESIGN CHOICE, log 5, unsafe). The
numbering of fields and the dropping of high bits are DEDUCED (log 8, unsafe). -/

namespace Sys2Proof.Machine

/-- The size of a space in the host's element indices: QT has four and SCAT eight per record (R80,
R85). -/
def Params.size (p : Params) : Space → Nat
  | .bm => p.bmBits
  | .cm => p.cmWords
  | .sm => p.smSamples
  | .istore => Config.ilvMax
  | .pft => Config.pftSlots
  | .ait => Config.aitSlots
  | .qt => 4 * Config.qtSegs
  | .scat => 8 * p.nsig

/-- The element exists (R92); of a catalog entry "f = 6 and 7 are undefined" (R85). -/
def elementDefined (p : Params) (sp : Space) (a : Nat) : Bool :=
  decide (a < Params.size p sp) && (decide (sp ≠ .scat) || decide (a % 8 < 6))

/-- `SpaceRead` of an element: its value, zero-extended. -/
def State.readSpace (s : State) (sp : Space) (a : Nat) : BitVec 128 :=
  match sp with
  | .bm => (BitVec.ofBool (s.bit a)).setWidth 128
  | .cm => (s.codeWord a).setWidth 128
  | .sm => ((s.sample a).i ++ (s.sample a).q).setWidth 128
  | .istore => (BitVec.ofBool (s.istoreBit a)).setWidth 128
  | .pft => (s.pftEntry a).setWidth 128
  | .ait => (s.aitEntry a).setWidth 128
  | .qt => (s.qtElement a).setWidth 128
  | .scat => (s.scatElement a).setWidth 128

/-- `SpaceWrite` of an element: the low bits up to the element's width. -/
def State.writeSpace (s : State) (sp : Space) (a : Nat) (v : BitVec 64) : State :=
  match sp with
  | .bm => s.writeBits a [v.getLsbD 0]
  | .cm => { s with cm := s.cm.put a (v.setWidth 16) }
  | .sm => s.writeSamples a [{ i := v.extractLsb' 32 32, q := v.extractLsb' 0 32 }]
  | .istore => s.setCur { s.cur with istore := s.cur.istore.put a (v.getLsbD 0) }
  | .pft => s.setCur { s.cur with pft := s.cur.pft.put a (v.setWidth 16) }
  | .ait => s.setCur { s.cur with ait := s.cur.ait.put a (v.setWidth 8) }
  | .qt => { s with qt := s.qt.put a (lowBits (qtWidth (a % 4)) v) }
  | .scat => { s with scat := s.scat.put a (lowBits (scatWidth (a % 8)) v) }

end Sys2Proof.Machine
end

