-- ==== Sys2Proof/Machine/Transactions.lean ====
section
/-! DEFINITION. One transaction of the host (00_scope.md R8), and the reset of
70_reset_and_hazards.md R320. -/

namespace Sys2Proof.Machine

/-- An answer given to the host, the latest last (R337). -/
def State.answer (s : State) (r : Response) : State := { s with responses := s.responses ++ [r] }

/-- The answer to a `Cmd`: "Every Cmd transaction returns one 8-bit status, and LASTST keeps the last one
returned" (R291). -/
def answerStatus : Host.Outcome State Fault Refusal → Host.Outcome State Fault Refusal
  | .next t => .next (t.answer (.status t.lastst))
  | .fault r => .fault r
  | .refused r => .refused r

/-- `Cmd(w)` (R8): a word that decodes is executed; any other is an illegal command, found before any
state is read (R117, R292, R299), in a faulted context too. -/
def present (w : Word) (s : State) : Host.Outcome State Fault Refusal :=
  match decode w with
  | .ok i => answerStatus (exec i s)
  | .error _ => answerStatus (.next (s.enterFault .illegalCommand w))

/-- The reset of R320 and R321, between two transactions: the architectural state is that after reset;
the parameters and the host's own side stay. -/
def State.resetAgain (s : State) : State :=
  { State.resetWith s.params (s.resets + 1) with pending := s.pending, responses := s.responses }

/-- One transaction (R8), or the reset. What is not a transaction of SG2 is refused (R55, R92). -/
def perform (e : HostEvent) (s : State) : Host.Outcome State Fault Refusal :=
  match e with
  | .regWrite n v =>
    match Reg.ofNumber n with
    | some r => .next (s.writeReg v r)
    | none => .refused (.undefinedRegister n)
  | .regRead n =>
    match Reg.ofNumber n with
    | some r => .next (s.answer (.value (s.readReg r)))
    | none => .refused (.undefinedRegister n)
  | .spaceWrite sp a v =>
    if elementDefined s.params sp a then .next (s.writeSpace sp a v)
    else .refused (.undefinedElement sp a)
  | .spaceRead sp a =>
    if elementDefined s.params sp a then .next (s.answer (.value (s.readSpace sp a)))
    else .refused (.undefinedElement sp a)
  | .cmd w => present w s
  | .reset => .next s.resetAgain

/-- The transaction at the head of those still to come, if any; with none "The block is idle between
commands and its state then does not change" (R309). -/
def nextTransaction (s : State) : Host.Outcome State Fault Refusal :=
  match s.pending with
  | [] => .next s
  | e :: rest => perform e { s with pending := rest }

end Sys2Proof.Machine
end

