-- ==== Sys2Proof/Machine/Step.lean ====
section
/-! DEFINITION. One step: the host's next transaction (00_scope.md R8, 20_memory.md R93). -/

namespace Sys2Proof.Machine

/-- One step of the machine: the next transaction of the host, whole (R12, R93). -/
def step (s : State) : Host.Outcome State Fault Refusal := nextTransaction s

/-- The state whose next transaction is `Cmd` of the `nbits` low bits of `w`: SG2 fetches nothing
(R24), a command comes to it as a transaction. -/
def State.withFetchWord (s : State) (nbits w : Nat) : State :=
  { s with pending := .cmd (BitVec.ofNat 32 (w % 2 ^ nbits)) :: s.pending }

end Sys2Proof.Machine
end

