-- ==== Sys2Proof/Safety.lean ====
section
/-! DEFINITION. The terms in which claims about SG2 are made: the outcome of a command, what a command
leaves alone, which commands may write what, and the invariant of the machine. -/

namespace Sys2Proof.Machine

/-! What a command answers. -/

/-- The completion status a command returns: what it leaves in `LASTST` (60_exceptions.md R291). -/
def completion (i : Instr) (s : State) : Option (BitVec 8) :=
  match exec i s with
  | .next t => some t.lastst
  | .fault _ => none
  | .refused _ => none

/-- The commands executed in a faulted context too (60_exceptions.md R296). -/
def exempt : Instr → Bool
  | .nop | .ctxclr | .kepler _ _ _ | .prop _ _ | .reldly _ => true
  | _ => false

/-- The fault codes a legal word of the command can return (the column "raised by" of R291). -/
def causes : Instr → List Cause
  | .nop => []
  | .ctxclr => []
  | .selsig _ => [.unsupportedSignal]
  | .fecrst => []
  | .pack _ _ _ => [.bmRange]
  | .packi _ _ => [.bmRange]
  | .packsp _ => [.config, .bmRange]
  | .qscale _ _ _ _ => []
  | .pwlq _ _ _ => [.config]
  | .crc24 _ _ _ => [.bmRange]
  | .crcput => [.bmRange]
  | .conv _ _ _ _ => [.bmRange]
  | .ilvw _ _ => [.config, .bmRange]
  | .ilvr _ _ => [.config, .bmRange]
  | .t2b _ _ => [.config]
  | .seek _ => [.config]
  | .adv => [.config]
  | .wtype _ => []
  | .almidx _ => []
  | .bcopy _ _ _ => [.bmRange]
  | .tile _ _ _ _ _ => [.config, .bmRange]
  | .mod _ _ _ => [.unsupportedSignal, .config, .bmRange, .cmRange, .smRange, .modRange]
  | .modofs _ => [.unsupportedSignal, .config]
  | .kepler _ _ _ => []
  | .prop _ _ => []
  | .reldly _ => []

/-- The completion statuses a legal word of the command can return (R291, R296). -/
def statuses (i : Instr) : List (BitVec 8) :=
  0 :: (causes i).map Cause.code ++ if exempt i then [] else [ctxFaultedCode]

/-! What a command leaves alone. -/

/-- Every context but the current one is as it was (10_state.md R40). -/
def sameOthers (s t : State) : Prop := ∀ k, k ≠ s.ctx.toNat → t.bank k = s.bank k

/-- Completed with status 0; of all the state only `x[rd]` and sticky flags may differ. -/
def onlyX (s t : State) (rd : XReg) : Prop :=
  t = { s with x := t.x, status := t.status, lastst := 0 } ∧ ∀ r, r ≠ rd → t.xreg r = s.xreg r

/-- Completed with status 0; of all the state only `q[qd]`, `KITER` and sticky flags may differ. -/
def onlyQ (s t : State) (qd : QReg) : Prop :=
  t = { s with q := t.q, kiter := t.kiter, status := t.status, lastst := 0 } ∧
    ∀ r, r ≠ qd → t.qval r = s.qval r

/-- Completed with status 0; of all the state only registers of the current context may differ, and
those are now `c`. -/
def onlyCur (s t : State) (c : Context) : Prop :=
  t = { s with banks := t.banks, lastst := 0 } ∧ sameOthers s t ∧ t.cur = c

/-- Every bit of BM outside `[a, a+n)` is as it was. -/
def sameBitsOutside (s t : State) (a n : Nat) : Prop :=
  ∀ b, b < a ∨ a + n ≤ b → t.bit b = s.bit b

/-- Completed with status 0; of all the state only the bits of BM in `[a, a+n)` may differ. -/
def onlyBm (s t : State) (a n : Nat) : Prop :=
  t = { s with bm := t.bm, lastst := 0 } ∧ sameBitsOutside s t a n

/-- Completed with status 0; of all the state only the bits of BM in `[a, a+n)` and the current
context, now `c`, may differ. -/
def onlyBmCur (s t : State) (a n : Nat) (c : Context) : Prop :=
  t = { s with bm := t.bm, banks := t.banks, lastst := 0 } ∧ sameBitsOutside s t a n ∧
    sameOthers s t ∧ t.cur = c

/-- `STATUS` with the flag set when `c` holds, and as it was otherwise. -/
def flagged (c : Prop) [Decidable c] (f : Flag) (st : BitVec 8) : BitVec 8 :=
  if c then st ||| f.mask else st

/-- The state a fault with code `c` of the command word `w` leaves (60_exceptions.md R295): nothing but
`LASTST` and, when the context held no record, its record. -/
def faultLeaves (s t : State) (c : BitVec 8) (w : Word) : Prop :=
  t = { s with banks := t.banks, lastst := c } ∧ sameOthers s t ∧
    t.cur = if s.cur.fsr = 0 then { s.cur with fsr := c, finfo := w } else s.cur

/-- The command raises the fault with code `c`, and that is all it does (60_exceptions.md R295). -/
def faultsWith (i : Instr) (s : State) (c : BitVec 8) : Prop :=
  ∃ t, exec i s = .next t ∧ faultLeaves s t c (encode i)

/-! The causes of faults, as the tables of 60_exceptions.md list them. -/

/-- `TICK_HZ` is not legal (R29). -/
abbrev tickIllegal (s : State) : Prop := s.tickHz.toNat = 0 ∨ 2 ^ 63 ≤ s.tickHz.toNat

/-- `NPP`, `PGS` or `SFS` is not legal (R46). -/
abbrev geometryIllegal (c : Context) : Prop :=
  ¬ (c.npp.toNat = 1 ∨ c.npp.toNat = 2) ∨ c.pgs.toNat < 1 ∨ 64 < c.pgs.toNat ∨ c.sfs.toNat < 1 ∨
    64 < c.sfs.toNat

/-- The interleaver's configuration is not legal: the row `ILVW, ILVR` of R293. -/
abbrev interleaverIllegal (c : Context) : Prop :=
  ilvRows c.ilvcfg = 0 ∨ ilvCols c.ilvcfg = 0 ∨ 2048 < ilvSize c.ilvcfg ∨
    ilvSize c.ilvcfg ≤ c.iwr.toNat ∨ ilvSize c.ilvcfg ≤ c.ird.toNat

/-- The quantiser's configuration is not legal: the row `PWLQ` of R293. -/
abbrev quantiserIllegal (s : State) : Prop :=
  s.qtn.toNat < 1 ∨ 8 < s.qtn.toNat ∨
    ∃ i, i < s.qtn.toNat ∧ ((s.segment i).step = 0 ∨ (s.segment i).cnt = 0)

/-- No supported signal is selected: the cause of R297 for `MOD` and `MODOFS`. -/
abbrev signalUnsupported (s : State) : Prop :=
  s.cur.sigv = 0 ∨ (s.catalog s.cur.sigt.toNat).valid = false ∨ (s.catalog s.cur.sigt.toNat).scheme = 3

/-- The table of 44_modulation.md R264: `NCOMP` and `SPC` allowed for the scheme. -/
abbrev schemeLimits (scheme ncomp spc : Nat) : Prop :=
  (scheme = 0 ∧ ncomp = 1 ∧ spc = 1) ∨ (scheme = 1 ∧ (ncomp = 1 ∨ ncomp = 2) ∧ 1 ≤ spc) ∨
    (scheme = 2 ∧ ncomp = 4 ∧ 1 ≤ spc)

/-- The row `MOD` of R293. -/
abbrev modConfigIllegal (s : State) : Prop :=
  tickIllegal s ∨ (s.catalog s.cur.sigt.toNat).chipRate = 0 ∨
    (s.catalog s.cur.sigt.toNat).modRate = 0 ∨ s.cur.spc = 0 ∨
    ¬ schemeLimits (s.catalog s.cur.sigt.toNat).scheme s.cur.ncomp.toNat s.cur.spc.toNat ∨
    ∃ k ∈ s.cur.components, k.cl = 0 ∨ k.ds = 3 ∨ (k.ds = 1 ∧ s.cur.strA.brm = 0) ∨
      (k.ds = 2 ∧ s.cur.strB.brm = 0)

/-- A BM range of `MOD` (the row `MOD` of R294) leaves BM. -/
abbrev modBmOutside (s : State) : Prop :=
  ∃ k ∈ s.cur.components, s.params.bmBits < k.sb.toNat + k.sl.toNat ∨
    (k.ds = 1 ∧ s.params.bmBits < s.cur.strA.nb.toNat + s.cur.strA.nc.toNat) ∨
    (k.ds = 2 ∧ s.params.bmBits < s.cur.strB.nb.toNat + s.cur.strB.nc.toNat)

/-- A CM range of `MOD` leaves CM: `m = 2` for ALTBOC, else 1 (R294). -/
abbrev modCmOutside (s : State) : Prop :=
  ∃ k ∈ s.cur.components, s.params.cmWords <
    k.cb.toNat + (if (s.catalog s.cur.sigt.toNat).scheme = 2 then 2 else 1) * k.cl.toNat

/-- `off_js` of 44_modulation.md R261, for the stream `st` and a slice that starts at `t0` ticks. -/
def navOffset (s : State) (t0 : Int) (st : NavStream) (j : Nat) : Int :=
  let rate : Int := (s.catalog s.cur.sigt.toNat).modRate
  let abs := s.cur.mflags = 1
  Int.fdiv (((if abs then t0 else 0) * rate + j * (s.tickHz.toNat : Int)) * st.brm.toNat)
    (rate * s.tickHz.toNat) - (if abs then (st.nk.toNat : Int) else 0)

/-- One of `ns` samples needs a navigation bit outside a used stream's window: the cause of R298. -/
abbrev modBitOutside (s : State) (t0 : Int) (ns : Nat) : Prop :=
  ∃ j, j < ns ∧ ∃ k ∈ s.cur.components,
    (k.ds = 1 ∧ ¬ (0 ≤ navOffset s t0 s.cur.strA j ∧
      navOffset s t0 s.cur.strA j < s.cur.strA.nc.toNat)) ∨
    (k.ds = 2 ∧ ¬ (0 ≤ navOffset s t0 s.cur.strB j ∧
      navOffset s t0 s.cur.strB j < s.cur.strB.nc.toNat))

/-! The convolutional encoder, without its shift register (43_fec.md R233). -/

/-- The input bit `back` steps before step `i` of a run over `BM[src ...]`: a bit of the run, or of the
register `csr` the run began with (`CSR[5]` the most recent, `CSR[0]` six steps back). -/
def convTap (s : State) (csr : BitVec 6) (src i back : Nat) : Bool :=
  if back ≤ i then s.bit (src + (i - back)) else csr.getLsbD (6 - (back - i))

/-- The parity of the taps a 7-bit mask selects at step `i`; its bit 6 is the present input. -/
def convSymbol (s : State) (csr : BitVec 6) (src i : Nat) (mask : BitVec 7) : Bool :=
  (List.range 7).foldl (fun p back => xor p (mask.getLsbD (6 - back) && convTap s csr src i back)) false

/-! Which commands may write what. -/

/-- The commands that write an operand register: "exactly QSCALE, PWLQ, T2B, WTYPE, ALMIDX and MODOFS
(each writes x[rd])" (10_state.md R22). -/
def xDest : Instr → Option XReg
  | .qscale rd _ _ _ | .pwlq rd _ _ | .t2b rd _ | .wtype rd | .almidx rd | .modofs rd => some rd
  | _ => none

/-- The fixed-point registers a command writes (R151, R154, R162). -/
def qDests : Instr → List QReg
  | .kepler qd _ _ | .reldly qd => [qd]
  | .prop _ _ => [16, 17, 18, 19, 20, 21, 22, 23]
  | _ => []

/-- The registers of its context, and the cells of ISTORE, that a command may write, from `d`; all else from `c`.
`SIGT`, `SIGV`: R42; `WP`: R44; the cursor: R24; the FEC state: R50, R244. The record of a fault (`FSR`, `FINFO`,
R43) is in no arm but that of `CTXCLR`. -/
def Context.writtenBy (c : Context) (i : Instr) (d : Context) : Context :=
  match i with
  | .nop => c
  | .ctxclr => { c with
      fsr := d.fsr, finfo := d.finfo, sigt := d.sigt, sigv := d.sigv
      csr := d.csr, iwr := d.iwr, ird := d.ird, crcr := d.crcr }
  | .selsig _ => { c with sigt := d.sigt, sigv := d.sigv }
  | .fecrst => { c with csr := d.csr, iwr := d.iwr, ird := d.ird, crcr := d.crcr }
  | .pack _ _ _ => { c with wp := d.wp }
  | .packi _ _ => { c with wp := d.wp }
  | .packsp _ => { c with wp := d.wp }
  | .qscale _ _ _ _ => c
  | .pwlq _ _ _ => c
  | .crc24 _ _ _ => { c with crcr := d.crcr }
  | .crcput => { c with wp := d.wp }
  | .conv _ _ _ _ => { c with csr := d.csr }
  | .ilvw _ _ => { c with iwr := d.iwr, istore := d.istore }
  | .ilvr _ _ => { c with ird := d.ird }
  | .t2b _ _ => c
  | .seek _ => { c with sf := d.sf, pg := d.pg, pp := d.pp, boff := d.boff }
  | .adv => { c with sf := d.sf, pg := d.pg, pp := d.pp, boff := d.boff }
  | .wtype _ => c
  | .almidx _ => c
  | .bcopy _ _ _ => c
  | .tile _ _ _ _ _ => c
  | .mod _ _ _ => c
  | .modofs _ => c
  | .kepler _ _ _ => c
  | .prop _ _ => c
  | .reldly _ => c

/-- The commands that write `KITER` (10_state.md R33). -/
def writesKiter : Instr → Bool
  | .kepler _ _ _ => true
  | .prop _ _ => true
  | _ => false

/-- The column "commands that write" of the row BM of 20_memory.md R80. -/
def writesBm : Instr → Bool
  | .nop => false
  | .ctxclr => false
  | .selsig _ => false
  | .fecrst => false
  | .pack _ _ _ => true
  | .packi _ _ => true
  | .packsp _ => true
  | .qscale _ _ _ _ => false
  | .pwlq _ _ _ => false
  | .crc24 _ _ _ => false
  | .crcput => true
  | .conv _ _ _ _ => true
  | .ilvw _ _ => false
  | .ilvr _ _ => true
  | .t2b _ _ => false
  | .seek _ => false
  | .adv => false
  | .wtype _ => false
  | .almidx _ => false
  | .bcopy _ _ _ => true
  | .tile _ _ _ _ _ => true
  | .mod _ _ _ => false
  | .modofs _ => false
  | .kepler _ _ _ => false
  | .prop _ _ => false
  | .reldly _ => false

/-- The column "commands that write" of the row SM of R80. -/
def writesSm : Instr → Bool
  | .mod _ _ _ => true
  | _ => false

/-- The column "commands that write" of the row ISTORE of R80. -/
def writesIstore : Instr → Bool
  | .ilvw _ _ => true
  | _ => false

/-- The flags a command can set: the column "set by" of 10_state.md R28. -/
def flagsOf : Instr → List Flag
  | .pack _ _ _ | .pwlq _ _ _ => [.fovf]
  | .qscale _ _ _ _ => [.fovf]
  | .t2b _ _ | .modofs _ => [.iovf]
  | .kepler _ _ _ => [.qovf, .divz, .noconv]
  | .prop _ _ => [.qovf, .divz, .noconv, .negsqrt]
  | .reldly _ => [.qovf, .divz]
  | _ => []

/-- The precondition of 40_orbit.md R153 on an eccentricity: 0 ≤ e < 1. -/
abbrev legalEcc (e : Int) : Prop := 0 ≤ e ∧ e < Config.one

/-! The host's two ways of reading. -/

/-- The register numbers the tables of 10_state.md R25 and R41 list. -/
def numberListed (n : Nat) : Prop :=
  n ≤ 0x00F ∨ (0x020 ≤ n ∧ n ≤ 0x04A) ∨ (0x080 ≤ n ∧ n ≤ 0x084) ∨ (0x088 ≤ n ∧ n ≤ 0x08E) ∨
    (0x090 ≤ n ∧ n ≤ 0x097) ∨ (0x0A0 ≤ n ∧ n ≤ 0x0A2) ∨ (0x0A4 ≤ n ∧ n ≤ 0x0AB) ∨
    ∃ k, k < 4 ∧ 0x0B0 + 8 * k ≤ n ∧ n ≤ 0x0B4 + 8 * k

/-- The width of an element of a space in bits, a sample of SM being 64 (20_memory.md R80, R85). -/
def elementWidth (sp : Space) (a : Nat) : Nat :=
  match sp with
  | .bm => 1
  | .cm => 16
  | .sm => 64
  | .istore => 1
  | .pft => 16
  | .ait => 8
  | .qt => qtWidth (a % 4)
  | .scat => scatWidth (a % 8)

/-- The bits of a register that a `RegWrite` stores: those of its width, less its reserved bits
(10_state.md R54, R47, R48). -/
def Reg.stored (v : BitVec 128) : Reg → BitVec 128
  | .convcfg => v &&& 0x17F7F
  | .ilvcfg => v &&& 0x87FF07FF
  | r => BitVec.ofNat 128 (v.toNat % 2 ^ r.width)

/-! The invariant. -/

/-- A context as the spec allows it: reserved bits 0 (R47, R48), a fault record that is empty or holds a
code 1 to 7 (R295), a selected signal that is in the catalog (R282), tables within their spaces. -/
abbrev Context.wf (p : Params) (c : Context) : Prop :=
  c.convcfg &&& ~~~ convcfgMask = 0 ∧ c.ilvcfg &&& ~~~ ilvcfgMask = 0 ∧ c.fsr.toNat ≤ 7 ∧
    (c.fsr = 0 → c.finfo = 0) ∧ (c.sigv = 1 → c.sigt.toNat < p.nsig) ∧ (c.sigv = 0 → c.sigt = 0) ∧
    Memory.wf Config.ilvMax c.istore ∧ Memory.wf Config.pftSlots c.pft ∧
    Memory.wf Config.aitSlots c.ait

/-- The invariant of every step: the parameters within their bounds (R6), `CTX` the number of a context
(R27), contexts 0 to `NCTX − 1` each in order, the reserved bits of `STATUS` 0 (R28), `LASTST` one of the
nine statuses (R291), `KITER` at most `MAXIT` (R33), every memory space in its canonical form within
its size (R80), every cell of QT and SCAT within its field's width and no undefined field (R85). -/
abbrev State.wf (s : State) : Prop :=
  s.params.Legal ∧ s.ctx.toNat < s.params.nctx ∧
    (s.banks.map Prod.fst = List.range s.params.nctx ∧ ∀ c ∈ s.banks, Context.wf s.params c.2) ∧
    s.status.toNat < 64 ∧ s.lastst.toNat ≤ 8 ∧ s.kiter.toNat ≤ 64 ∧
    Memory.wf s.params.bmBits s.bm ∧ Memory.wf s.params.cmWords s.cm ∧
    Memory.wf s.params.smSamples s.sm ∧
    (Memory.wf (4 * Config.qtSegs) s.qt ∧ ∀ c ∈ s.qt, c.2.toNat < 2 ^ qtWidth (c.1 % 4)) ∧
    (Memory.wf (8 * s.params.nsig) s.scat ∧
      ∀ c ∈ s.scat, c.1 % 8 < 6 ∧ c.2.toNat < 2 ^ scatWidth (c.1 % 8))

end Sys2Proof.Machine
end

