-- ==== Sys2Proof/Certificates/Slice0/Obligations.lean ====
section
/-! DEFINITION. The statements for the provers. Each `def` is a proposition; its docstring names the rule of
spec/ it formalises. A statement about all states holds for all of them, reachable or not. -/

open Sys2Proof Sys2Proof.Machine

/-! Encoding. -/

/-- O1, R115, R118, R119, R120. For every well-formed command i, decode of encode i is i, with every
operand at every value the encoding admits. -/
def Obligations.DecodeEncodeAgree : Prop :=
  ∀ i : Instr, i.wellFormed = true → decode (encode i) = .ok i

/-- O2, R115, R116, R117, R119, R120. If a word decodes to a command, the command is well-formed and
encoding it gives the word again: each legal word has one meaning and no bit of it is dropped. -/
def Obligations.EncodeDecodeAgree : Prop :=
  ∀ (w : Word) (i : Instr), decode w = .ok i → i.wellFormed = true ∧ encode i = w

/-- O3, R115, R116, R117, R118, R119. A 32-bit word decodes to a command if and only if it matches the
match and mask of a row of the table of R115 and, in the row PACKI, its value fits the width its ra
field gives. -/
def Obligations.LegalWordsExactly : Prop :=
  ∀ w : Word, (∃ i, decode w = .ok i) ↔
    ∃ r ∈ opcodeTable, w &&& r.mask = r.bits ∧
      (r.mnemonic = "PACKI" →
        (w.extractLsb' 0 16).toNat < 2 ^ ((w.extractLsb' 20 4).toNat + 1))

/-- O4, R122. The eleven words of R122 decode to the commands written beside them, and the encoder
writes the same words. -/
def Obligations.WorkedEncodings : Prop :=
  decode 0x1031001F = .ok (.pack 3 true 31) ∧ encode (.pack 3 true 31) = 0x1031001F ∧
    decode 0x11900160 = .ok (.packi 9 0x160) ∧ encode (.packi 9 0x160) = 0x11900160 ∧
    decode 0x12000064 = .ok (.packsp 100) ∧ encode (.packsp 100) = 0x12000064 ∧
    decode 0x13239F80 = .ok (.qscale 2 7 31 true) ∧ encode (.qscale 2 7 31 true) = 0x13239F80 ∧
    decode 0x1320FD00 = .ok (.qscale 2 1 (-3) false) ∧
    encode (.qscale 2 1 (-3) false) = 0x1320FD00 ∧
    decode 0x20012000 = .ok (.crc24 1 2 false) ∧ encode (.crc24 1 2 false) = 0x20012000 ∧
    decode 0x22312000 = .ok (.conv 3 1 2 false) ∧ encode (.conv 3 1 2 false) = 0x22312000 ∧
    decode 0x36567890 = .ok (.tile 5 6 7 8 9) ∧ encode (.tile 5 6 7 8 9) = 0x36567890 ∧
    decode 0x50B24200 = .ok (.kepler 22 9 1) ∧ encode (.kepler 22 9 1) = 0x50B24200 ∧
    decode 0x51045000 = .ok (.prop 4 5) ∧ encode (.prop 4 5) = 0x51045000 ∧
    decode 0x52D80000 = .ok (.reldly 27) ∧ encode (.reldly 27) = 0x52D80000

/-! Steps and the host's transactions. -/

/-- O5, R8, R93, R119, R291. When the next transaction presents a word that decodes to i, exec of i at
the state without that transaction answers a next state t, and the step's state is t with its completion
status appended to the answers given to the host (the lists of transactions to come and of answers are
the model's choice, log 3). -/
def Obligations.StepRunsDecoded : Prop :=
  ∀ (s : State) (w : Word) (rest : List HostEvent) (i : Instr),
    s.pending = .cmd w :: rest → decode w = .ok i →
      ∃ t, exec i { s with pending := rest } = .next t ∧ t.pending = rest ∧
        t.responses = s.responses ∧
        step s = .next { t with responses := s.responses ++ [.status t.lastst] }

/-- O6, R117, R292, R295, R299. When the next transaction presents a word that decodes to no command,
the step answers status 2 and leaves the state of a fault with code 2: LASTST, and FSR and FINFO of the
current context when it held no record (that the answer joins a list is the model's choice, log 3). -/
def Obligations.IllegalCommand : Prop :=
  ∀ (s : State) (w : Word) (rest : List HostEvent),
    s.pending = .cmd w :: rest → (∀ i, decode w ≠ .ok i) →
      ∃ t, faultLeaves { s with pending := rest } t 2 w ∧
        step s = .next { t with responses := s.responses ++ [.status 2] }

/-- O7, R8, R25, R41, R54, R90, R309, R320, R321. With nothing to do the state does not change; a write
to a register or an element that exists leaves State.writeReg or State.writeSpace of the state without
that transaction, and answers nothing; a read answers the value read and changes nothing; a reset leaves
the reset state whatever the state was, with the model's own fields kept (logs 3 and 4). Each number of
the tables of R25 and R41 names the register the table gives it, and a RegRead of it yields that
register's value, a banked one that of the current context. For QT and SCAT, that sizes count fields,
that a SpaceRead names a field, and that fields 6 and 7 are no elements, is the model's reading (log 8).
-/
def Obligations.StepOfOtherTransactions : Prop :=
  ∀ (s : State) (rest : List HostEvent) (n : Nat) (r : Reg) (v : BitVec 128) (sp : Space) (a : Nat)
    (u : BitVec 64),
    (s.pending = [] → step s = .next s) ∧
    (s.pending = .regWrite n v :: rest → Reg.ofNumber n = some r →
      step s = .next (State.writeReg { s with pending := rest } v r)) ∧
    (s.pending = .spaceWrite sp a u :: rest → a < Params.size s.params sp →
      (sp = .scat → a % 8 < 6) →
      step s = .next (State.writeSpace { s with pending := rest } sp a u)) ∧
    (s.pending = .regRead n :: rest → Reg.ofNumber n = some r →
      step s = .next { s with
        pending := rest
        responses := s.responses ++ [.value (State.readReg { s with pending := rest } r)] }) ∧
    (s.pending = .spaceRead sp a :: rest → a < Params.size s.params sp →
      (sp = .scat → a % 8 < 6) →
      step s = .next { s with
        pending := rest
        responses := s.responses ++ [.value (State.readSpace { s with pending := rest } sp a)] }) ∧
    (s.pending = .reset :: rest →
      step s = .next { State.resetWith s.params (s.resets + 1) with
        pending := rest, responses := s.responses }) ∧
    (∀ i : XReg, Reg.ofNumber i.toNat = some (.x i) ∧ s.readReg (.x i) = (s.xreg i).setWidth 128) ∧
    (∀ i : QReg, Reg.ofNumber (0x020 + i.toNat) = some (.q i) ∧
      (s.readReg (.q i)).toInt = s.qval i) ∧
    (∀ k : Fin 4, ∀ row ∈ ([(0x0B0, .cb k, s.cur.comp[k].cb.setWidth 128),
        (0x0B1, .cl k, s.cur.comp[k].cl.setWidth 128), (0x0B2, .sb k, s.cur.comp[k].sb.setWidth 128),
        (0x0B3, .sl k, s.cur.comp[k].sl.setWidth 128), (0x0B4, .ds k, s.cur.comp[k].ds.setWidth 128)] :
        List (Nat × Reg × BitVec 128)),
      Reg.ofNumber (row.1 + 8 * k.val) = some row.2.1 ∧ s.readReg row.2.1 = row.2.2) ∧
    ∀ row ∈ ([(0x040, .id, 0x53473207), (0x041, .ctx, s.ctx.setWidth 128),
        (0x042, .status, s.status.setWidth 128), (0x043, .tickHz, s.tickHz.setWidth 128),
        (0x044, .maxtt, s.maxtt.setWidth 128), (0x045, .crcPoly, s.crcPoly.setWidth 128),
        (0x046, .spare, s.spare.setWidth 128), (0x047, .splen, s.splen.setWidth 128),
        (0x048, .kiter, s.kiter.setWidth 128), (0x049, .lastst, s.lastst.setWidth 128),
        (0x04A, .qtn, s.qtn.setWidth 128), (0x080, .sigt, s.cur.sigt.setWidth 128),
        (0x081, .sigv, s.cur.sigv.setWidth 128), (0x082, .fsr, s.cur.fsr.setWidth 128),
        (0x083, .finfo, s.cur.finfo.setWidth 128), (0x084, .wp, s.cur.wp.setWidth 128),
        (0x088, .br, s.cur.br.setWidth 128), (0x089, .ppb, s.cur.ppb.setWidth 128),
        (0x08A, .npp, s.cur.npp.setWidth 128), (0x08B, .pgs, s.cur.pgs.setWidth 128),
        (0x08C, .sfs, s.cur.sfs.setWidth 128), (0x08D, .convcfg, s.cur.convcfg.setWidth 128),
        (0x08E, .ilvcfg, s.cur.ilvcfg.setWidth 128), (0x090, .sf, s.cur.sf.setWidth 128),
        (0x091, .pg, s.cur.pg.setWidth 128), (0x092, .pp, s.cur.pp.setWidth 128),
        (0x093, .boff, s.cur.boff.setWidth 128), (0x094, .csr, s.cur.csr.setWidth 128),
        (0x095, .iwr, s.cur.iwr.setWidth 128), (0x096, .ird, s.cur.ird.setWidth 128),
        (0x097, .crcr, s.cur.crcr.setWidth 128), (0x0A0, .spc, s.cur.spc.setWidth 128),
        (0x0A1, .mflags, s.cur.mflags.setWidth 128), (0x0A2, .ncomp, s.cur.ncomp.setWidth 128),
        (0x0A4, .nb .a, s.cur.strA.nb.setWidth 128), (0x0A5, .nk .a, s.cur.strA.nk.setWidth 128),
        (0x0A6, .nc .a, s.cur.strA.nc.setWidth 128), (0x0A7, .brm .a, s.cur.strA.brm.setWidth 128),
        (0x0A8, .nb .b, s.cur.strB.nb.setWidth 128), (0x0A9, .nk .b, s.cur.strB.nk.setWidth 128),
        (0x0AA, .nc .b, s.cur.strB.nc.setWidth 128), (0x0AB, .brm .b, s.cur.strB.brm.setWidth 128)] :
        List (Nat × Reg × BitVec 128)),
      Reg.ofNumber row.1 = some row.2.1 ∧ s.readReg row.2.1 = row.2.2

/-- O8, R54. A RegWrite to a register that is not read-only (and is neither CTX nor STATUS, which have
rules of their own) leaves it reading as the low bits of the value up to its width with reserved bits 0,
leaves every other register, every element of every space and every other context as it was; a RegWrite
to a read-only register changes nothing; CTX refuses a value of NCTX or more (that all 128 bits of the
value count there is the model's reading, logs 7 and 14). -/
def Obligations.RegWriteReads : Prop :=
  ∀ (s : State) (v : BitVec 128) (r : Reg),
    (r.readOnly = true → s.writeReg v r = s) ∧
    (r.readOnly = false → r ≠ .ctx → r ≠ .status →
      (s.writeReg v r).readReg r = Reg.stored v r ∧
      (∀ r', r' ≠ r → (s.writeReg v r).readReg r' = s.readReg r') ∧
      (∀ sp a, (s.writeReg v r).readSpace sp a = s.readSpace sp a) ∧
      sameOthers s (s.writeReg v r)) ∧
    (s.params.nctx ≤ v.toNat → s.writeReg v .ctx = s)

/-- O9, R27, R28, R90. A RegWrite of m to STATUS clears the flags whose bit is 1 in m and changes
nothing else; a RegWrite of v to CTX sets CTX to v when v is below NCTX and otherwise changes nothing
(that the whole value written is compared, and that its low 16 bits are stored, is the model's reading,
logs 7 and 16). -/
def Obligations.StatusAndCtxWrites : Prop :=
  ∀ (s : State) (v : BitVec 128),
    s.writeReg v .status = { s with status := s.status &&& ~~~ (v.setWidth 8) } ∧
      (v.toNat < s.params.nctx → s.writeReg v .ctx = { s with ctx := v.setWidth 16 }) ∧
      (¬ v.toNat < s.params.nctx → s.writeReg v .ctx = s)

/-- O10, R55, R85, R92. A RegRead or RegWrite is refused exactly when no table of 10_state.md lists its
number; a SpaceRead or SpaceWrite exactly when its index is not below the size of the space or names
field 6 or 7 of a catalog entry (that a SpaceRead of QT and SCAT names fields, that their sizes count
fields, and that fields 6 and 7 are refused, is the model's reading, log 8). -/
def Obligations.UndefinedTransactionsRefused : Prop :=
  ∀ (s : State) (rest : List HostEvent) (n : Nat) (v : BitVec 128) (sp : Space) (a : Nat)
    (u : BitVec 64),
    (s.pending = .regRead n :: rest →
      (step s = .refused (.undefinedRegister n) ↔ ¬ numberListed n)) ∧
    (s.pending = .regWrite n v :: rest →
      (step s = .refused (.undefinedRegister n) ↔ ¬ numberListed n)) ∧
    (s.pending = .spaceRead sp a :: rest →
      (step s = .refused (.undefinedElement sp a) ↔
        Params.size s.params sp ≤ a ∨ (sp = .scat ∧ 6 ≤ a % 8))) ∧
    (s.pending = .spaceWrite sp a u :: rest →
      (step s = .refused (.undefinedElement sp a) ↔
        Params.size s.params sp ≤ a ∨ (sp = .scat ∧ 6 ≤ a % 8)))

/-- O11, R80, R85, R90, R99. After a SpaceWrite the element reads as the low bits of the value up to its
width; every other element of every space of the current context, every register and every other context
reads as before. A SpaceRead yields, zero-extended, the element of its space that the commands read, and
fields 0 to 3 of a segment and 0, 1, 4 and 5 of a catalog entry are those R85 names (that a sample of SM
is 64 bits, I then Q, is the model's choice, log 5; the numbering of fields of QT and SCAT and the
dropping of high bits are the model's reading, log 8). -/
def Obligations.SpaceWriteReads : Prop :=
  ∀ (s : State) (sp : Space) (a : Nat) (v : BitVec 64),
    (s.writeSpace sp a v).readSpace sp a = BitVec.ofNat 128 (v.toNat % 2 ^ elementWidth sp a) ∧
      (∀ sp' a', (sp' ≠ sp ∨ a' ≠ a) →
        (s.writeSpace sp a v).readSpace sp' a' = s.readSpace sp' a') ∧
      (∀ r, (s.writeSpace sp a v).readReg r = s.readReg r) ∧ sameOthers s (s.writeSpace sp a v) ∧
      (s.readSpace .bm a).toNat = (s.bit a).toNat ∧ s.readSpace .cm a = (s.codeWord a).setWidth 128 ∧
      (s.readSpace .sm a).toNat = (s.sample a).i.toNat * 2 ^ 32 + (s.sample a).q.toNat ∧
      (s.readSpace .istore a).toNat = (s.istoreBit a).toNat ∧
      s.readSpace .pft a = (s.pftEntry a).setWidth 128 ∧
      s.readSpace .ait a = (s.aitEntry a).setWidth 128 ∧
      s.segment a = { lo := (s.readSpace .qt (4 * a)).toNat, step := (s.readSpace .qt (4 * a + 1)).toNat,
                      base := (s.readSpace .qt (4 * a + 2)).toNat
                      cnt := (s.readSpace .qt (4 * a + 3)).toNat } ∧
      s.catalog a = { valid := decide (s.readSpace .scat (8 * a) = 1)
                      scheme := (s.readSpace .scat (8 * a + 1)).toNat
                      chipRate := (s.readSpace .scat (8 * a + 4)).toNat
                      modRate := (s.readSpace .scat (8 * a + 5)).toNat }

/-! Reset and the invariant. -/

/-- O12, R56, R321. After reset, under every context number, every register reads 0 but ID, which reads
0x53473207, and SPLEN, which reads 1; no element of any memory space has been written, so each has the
unspecified value of R99 (one free value per reset, space, context and index: the model's reading, log
2; a sample of SM as I then Q: the model's choice, log 5). -/
def Obligations.ResetValues : Prop :=
  ∀ (p : Params) (n : Nat) (k : BitVec 16) (r : Reg),
    (State.resetWith p n).ctx = 0 ∧
      (r ≠ .ctx → State.readReg { State.resetWith p n with ctx := k } r =
        if r = .id then 0x53473207 else if r = .splen then 1 else 0) ∧
      (∀ sp a, State.readSpace { State.resetWith p n with ctx := k } sp a =
        let free := Config.powerOn n sp
          (if sp = .istore ∨ sp = .pft ∨ sp = .ait then k.toNat else 0) a
        BitVec.ofNat 128 (free.toNat % 2 ^ elementWidth sp a))

/-- O13, R6, R56, R321. For all parameters within the bounds of R6 the reset state satisfies State.wf,
and State.reset is the reset state of one such choice (the model's own, log 1). -/
def Obligations.ResetWf : Prop :=
  (∀ (p : Params) (n : Nat), p.Legal → (State.resetWith p n).wf) ∧ State.reset.wf

/-- O14, R6, R27, R28, R33, R54, R80, R282, R291. For every state that satisfies State.wf (legal
parameters, CTX below NCTX, the contexts in place, reserved bits 0, LASTST one of the nine statuses,
KITER at most 64, a selected signal below NSIG, every memory space canonical and within its size),
whatever the next transaction is, the state after the step satisfies it. -/
def Obligations.StepKeepsWf : Prop :=
  ∀ s t : State, s.wf → step s = .next t → t.wf

/-! Faults. -/

/-- O15, R291, R296, R309, R337. From every state every command answers a next state, whose LASTST is 0,
a code the table of R291 lists for that command, or CTX_FAULTED for a command that is not exempt; the
host's side of the state is as it was (that a fault is a next state is the model's choice, log 11; the
parameters, the lists of transactions and answers and the count of resets are the model's own, logs 1, 3
and 4). -/
def Obligations.EveryCommandCompletes : Prop :=
  ∀ (i : Instr) (s : State), ∃ t, exec i s = .next t ∧ t.lastst ∈ statuses i ∧
    t.pending = s.pending ∧ t.responses = s.responses ∧ t.params = s.params ∧ t.resets = s.resets

/-- O16, R291, R295. Whenever a presented word completes with a status other than 0 and 8, the state is
as it was but for LASTST, which holds the code, and, when the current context held no record, its FSR
and FINFO, which hold the code and the command word; every other context is as it was, and the code (1
to 7) is what the host is answered (the list of answers is the model's choice, log 3). -/
def Obligations.FaultsArePrecise : Prop :=
  ∀ (w : Word) (s t : State), present w s = .next t → t.lastst ≠ 0 → t.lastst ≠ 8 →
    faultLeaves s { t with responses := s.responses } t.lastst w ∧
      t.responses = s.responses ++ [.status t.lastst] ∧ 1 ≤ t.lastst.toNat ∧ t.lastst.toNat ≤ 7

/-- O17, R296. While FSR is not 0 every command but NOP, CTXCLR, KEPLER, PROP and RELDLY changes nothing
but LASTST, which becomes 8; the five complete with status 0; status 8 is returned in no other case and
is never recorded. -/
def Obligations.FaultedContextRefuses : Prop :=
  ∀ (i : Instr) (s : State),
    (s.cur.fsr ≠ 0 → exempt i = false → exec i s = .next { s with lastst := 8 }) ∧
      (exempt i = true → completion i s = some 0) ∧
      (s.cur.fsr = 0 → completion i s ≠ some 8)

/-- O18, R293. In a context that is not faulted each of the ten commands of the table completes with
status 6 exactly when a value of its row is not legal; for MOD and MODOFS when a supported signal is
selected (the earlier cause is reported otherwise). -/
def Obligations.ConfigCauses : Prop :=
  ∀ s : State, s.cur.fsr = 0 →
    (∀ rd ra, completion (.t2b rd ra) s = some 6 ↔ tickIllegal s ∨ s.cur.br = 0) ∧
    (∀ ra, completion (.seek ra) s = some 6 ↔ s.cur.ppb = 0 ∨ geometryIllegal s.cur) ∧
    (completion .adv s = some 6 ↔ geometryIllegal s.cur) ∧
    (∀ w, completion (.packsp w) s = some 6 ↔ s.splen.toNat < 1 ∨ 64 < s.splen.toNat) ∧
    (∀ rd ra up, completion (.pwlq rd ra up) s = some 6 ↔ quantiserIllegal s) ∧
    (∀ rd ra rb rc re, completion (.tile rd ra rb rc re) s = some 6 ↔ s.xreg rb = 0) ∧
    (∀ ra rb, completion (.ilvw ra rb) s = some 6 ↔ interleaverIllegal s.cur) ∧
    (∀ rd rb, completion (.ilvr rd rb) s = some 6 ↔ interleaverIllegal s.cur) ∧
    (¬ signalUnsupported s → ∀ rd ra rb,
      (completion (.mod rd ra rb) s = some 6 ↔ modConfigIllegal s)) ∧
    (¬ signalUnsupported s → ∀ rd, (completion (.modofs rd) s = some 6 ↔ tickIllegal s))

/-- O19, R86, R294. In a context that is not faulted, with the configuration of the command legal, each
command of R294 but MOD completes with status 3 exactly when one of the ranges of its row is not inside
BM; the sum of start and length is a mathematical integer, and an empty range is tested too. -/
def Obligations.BmRangeCauses : Prop :=
  ∀ s : State, s.cur.fsr = 0 →
    (∀ ra sg wm1, completion (.pack ra sg wm1) s = some 3 ↔
      s.params.bmBits < s.cur.wp.toNat + (wm1.toNat + 1)) ∧
    (∀ wm1 imm, completion (.packi wm1 imm) s = some 3 ↔
      s.params.bmBits < s.cur.wp.toNat + (wm1.toNat + 1)) ∧
    (1 ≤ s.splen.toNat → s.splen.toNat ≤ 64 → ∀ w, (completion (.packsp w) s = some 3 ↔
      s.params.bmBits < s.cur.wp.toNat + w.toNat)) ∧
    (∀ ra rb c, completion (.crc24 ra rb c) s = some 3 ↔
      s.params.bmBits < s.xval ra + s.xval rb) ∧
    (completion .crcput s = some 3 ↔ s.params.bmBits < s.cur.wp.toNat + 24) ∧
    (∀ rd ra rb k, completion (.conv rd ra rb k) s = some 3 ↔
      s.params.bmBits < s.xval ra + s.xval rb ∨ s.params.bmBits < s.xval rd + 2 * s.xval rb) ∧
    (¬ interleaverIllegal s.cur → ∀ ra rb, (completion (.ilvw ra rb) s = some 3 ↔
      s.params.bmBits < s.xval ra + s.xval rb)) ∧
    (¬ interleaverIllegal s.cur → ∀ rd rb, (completion (.ilvr rd rb) s = some 3 ↔
      s.params.bmBits < s.xval rd + s.xval rb)) ∧
    (∀ rd ra rb, completion (.bcopy rd ra rb) s = some 3 ↔
      s.params.bmBits < s.xval ra + s.xval rb ∨ s.params.bmBits < s.xval rd + s.xval rb) ∧
    (∀ rd ra rb rc re, s.xreg rb ≠ 0 → (completion (.tile rd ra rb rc re) s = some 3 ↔
      s.params.bmBits < s.xval ra + s.xval rb ∨ s.params.bmBits < s.xval rd + s.xval re))

/-- O20, R265, R294, R297, R298, R299. In a context that is not faulted MOD completes with the code of
the first of its causes that holds: unsupported signal, configuration, BM range, CM range, SM range,
navigation bit outside its window; and with 0 when none holds (that NK_s is unsigned is the model's
reading, log 9). -/
def Obligations.ModChecksInOrder : Prop :=
  ∀ (s : State) (rd ra rb : XReg), s.cur.fsr = 0 →
    let status := completion (.mod rd ra rb) s
    (signalUnsupported s → status = some 1) ∧
    (¬ signalUnsupported s → modConfigIllegal s → status = some 6) ∧
    (¬ signalUnsupported s → ¬ modConfigIllegal s → modBmOutside s → status = some 3) ∧
    (¬ signalUnsupported s → ¬ modConfigIllegal s → ¬ modBmOutside s → modCmOutside s →
      status = some 4) ∧
    (¬ signalUnsupported s → ¬ modConfigIllegal s → ¬ modBmOutside s → ¬ modCmOutside s →
      s.params.smSamples < s.xval rd + s.xval rb → status = some 5) ∧
    (¬ signalUnsupported s → ¬ modConfigIllegal s → ¬ modBmOutside s → ¬ modCmOutside s →
      s.xval rd + s.xval rb ≤ s.params.smSamples →
      (modBitOutside s (s.xint ra) (s.xval rb) → status = some 7) ∧
      (¬ modBitOutside s (s.xint ra) (s.xval rb) → status = some 0))

/-! Rules of the whole machine. -/

/-- O21, R40. Replacing every context but the current one by arbitrary other contents changes nothing a
command does: it answers the same state but for those contexts, and leaves them as they were. -/
def Obligations.ContextIsolation : Prop :=
  ∀ (i : Instr) (s : State) (other : Memory Context),
    other.get? s.ctx.toNat = s.banks.get? s.ctx.toNat →
      ∃ t u, exec i s = .next t ∧ exec i { s with banks := other } = .next u ∧
        u = { t with banks := u.banks } ∧ u.cur = t.cur ∧ sameOthers s t ∧
        sameOthers { s with banks := other } u

/-- O22, R28, R149, R299. For every command and state there is a set of flags, all among those R28 lets
the command set, such that from every value of STATUS the command leaves STATUS with exactly these flags
added and the rest of the state as it leaves it from any other value. -/
def Obligations.StatusStickyAndNeverRead : Prop :=
  ∀ (i : Instr) (s : State), ∃ (t : State) (d : List Flag), (∀ f ∈ d, f ∈ flagsOf i) ∧
    ∀ st : BitVec 8, exec i { s with status := st } =
      .next { t with status := d.foldl (fun acc f => acc ||| f.mask) st }

/-- O23, R22, R23, R24, R27, R33, R35, R42, R43, R44, R49, R50, R244. A command writes no operand
register but the x[rd] of QSCALE, PWLQ, T2B, WTYPE, ALMIDX and MODOFS; no fixed-point register but its
q[qd] or, for PROP, q16 to q23; never CTX, TICK_HZ, MAXTT, CRC_POLY, SPARE, SPLEN, QTN or a
configuration register of its context; KITER only KEPLER and PROP; SIGT and SIGV only SELSIG and CTXCLR;
WP only PACK, PACKI, PACKSP and CRCPUT; the cursor only SEEK and ADV; CSR, IWR, IRD, CRCR and ISTORE
only the FEC command that advances it (and, but for ISTORE, FECRST and CTXCLR); FSR and FINFO only
CTXCLR, and a fault where FSR was 0. STATUS is the matter of StatusStickyAndNeverRead, and LASTST of
every command. -/
def Obligations.RegisterWriters : Prop :=
  ∀ (i : Instr) (s t : State), exec i s = .next t →
    (∀ r, xDest i ≠ some r → t.xreg r = s.xreg r) ∧ (∀ r, r ∉ qDests i → t.qval r = s.qval r) ∧
      t.ctx = s.ctx ∧ t.tickHz = s.tickHz ∧ t.maxtt = s.maxtt ∧ t.crcPoly = s.crcPoly ∧
      t.spare = s.spare ∧ t.splen = s.splen ∧ t.qtn = s.qtn ∧
      (writesKiter i = false → t.kiter = s.kiter) ∧
      t.cur = { s.cur.writtenBy i t.cur with fsr := t.cur.fsr, finfo := t.cur.finfo } ∧
      (i ≠ .ctxclr → t.lastst = 0 ∨ t.lastst = 8 ∨ s.cur.fsr ≠ 0 →
        t.cur.fsr = s.cur.fsr ∧ t.cur.finfo = s.cur.finfo)

/-- O24, R80, R82, R83, R84. BM is written only by PACK, PACKI, PACKSP, CRCPUT, CONV, ILVR, BCOPY and
TILE; SM only by MOD; ISTORE only by ILVW, in the current context; CM, PFT, AIT, QT and SCAT by no
command. -/
def Obligations.SpaceWriters : Prop :=
  ∀ (i : Instr) (s t : State), exec i s = .next t →
    (writesBm i = false → ∀ a, t.bit a = s.bit a) ∧
      (writesSm i = false → ∀ a, t.sample a = s.sample a) ∧
      (writesIstore i = false → ∀ c, t.istoreBit c = s.istoreBit c) ∧
      (∀ a, t.codeWord a = s.codeWord a) ∧ (∀ k, t.qtElement k = s.qtElement k) ∧
      (∀ k, t.scatElement k = s.scatElement k) ∧ (∀ p, t.pftEntry p = s.pftEntry p) ∧
      (∀ n, t.aitEntry n = s.aitEntry n) ∧ sameOthers s t

/-! The commands: system. -/

/-- O25, R280. NOP answers the same state with LASTST 0, in a faulted context too. -/
def Obligations.NopResult : Prop :=
  ∀ s : State, exec .nop s = .next { s with lastst := 0 }

/-- O26, R240, R281. CTXCLR, in every state, zeroes FSR, FINFO, SIGT, SIGV, CSR, IWR, IRD and CRCR of
the current context and changes nothing else; FECRST, in a context that is not faulted, zeroes CSR, IWR,
IRD and CRCR and changes nothing else, ISTORE included. -/
def Obligations.ClearingCommands : Prop :=
  ∀ s : State,
    (∃ t, exec .ctxclr s = .next t ∧
      onlyCur s t { s.cur with
        fsr := 0, finfo := 0, sigt := 0, sigv := 0, csr := 0, iwr := 0, ird := 0, crcr := 0 }) ∧
    (s.cur.fsr = 0 → ∃ t, exec .fecrst s = .next t ∧
      onlyCur s t { s.cur with csr := 0, iwr := 0, ird := 0, crcr := 0 })

/-- O27, R282. In a context that is not faulted: with an id below NSIG of a valid entry whose scheme is
not 3, SIGT takes the id, SIGV becomes 1 and nothing else changes; with any other id UNSUPPORTED_SIGNAL
is raised. -/
def Obligations.SelsigResult : Prop :=
  ∀ (s : State) (ra : XReg), s.cur.fsr = 0 →
    (s.xval ra < s.params.nsig → (s.catalog (s.xval ra)).valid = true →
      (s.catalog (s.xval ra)).scheme ≠ 3 → ∃ t, exec (.selsig ra) s = .next t ∧
        onlyCur s t { s.cur with sigt := BitVec.ofNat 16 (s.xval ra), sigv := 1 }) ∧
    (s.params.nsig ≤ s.xval ra ∨ (s.catalog (s.xval ra)).valid = false ∨
      (s.catalog (s.xval ra)).scheme = 3 → faultsWith (.selsig ra) s 1)

/-! The commands: packer. -/

/-- O28, R180. In a context that is not faulted, with the field inside BM: bit w-1-i of x[ra] goes to
BM[WP+i] for i below w, WP advances by w modulo 2^32, FOVF is set exactly when the value does not fit,
nothing else changes; with the field outside BM, BM_RANGE. -/
def Obligations.PackResult : Prop :=
  ∀ (s : State) (ra : XReg) (signed : Bool) (wm1 : BitVec 6), s.cur.fsr = 0 →
    let w := wm1.toNat + 1
    let a := s.cur.wp.toNat
    let fits := if signed = true then -(2 ^ (w - 1)) ≤ s.xint ra ∧ s.xint ra < 2 ^ (w - 1)
      else s.xval ra < 2 ^ w
    (s.params.bmBits < a + w → faultsWith (.pack ra signed wm1) s 3) ∧
    (a + w ≤ s.params.bmBits → ∃ t, exec (.pack ra signed wm1) s = .next t ∧
      onlyBmCur { s with status := flagged (¬ fits) .fovf s.status } t a w
        { s.cur with wp := BitVec.ofNat 32 ((a + w) % 2 ^ 32) } ∧
      ∀ i, i < w → t.bit (a + i) = (s.xreg ra).getLsbD (w - 1 - i))

/-- O29, R118, R181. In a context that is not faulted, with the field inside BM: bit w-1-i of the
immediate goes to BM[WP+i] for i below w, WP advances by w modulo 2^32, nothing else changes; outside
BM, BM_RANGE. -/
def Obligations.PackiResult : Prop :=
  ∀ (s : State) (wm1 : BitVec 4) (imm : BitVec 16), s.cur.fsr = 0 →
    let w := wm1.toNat + 1
    let a := s.cur.wp.toNat
    (s.params.bmBits < a + w → faultsWith (.packi wm1 imm) s 3) ∧
    (a + w ≤ s.params.bmBits → ∃ t, exec (.packi wm1 imm) s = .next t ∧
      onlyBmCur s t a w { s.cur with wp := BitVec.ofNat 32 ((a + w) % 2 ^ 32) } ∧
      ∀ i, i < w → t.bit (a + i) = imm.getLsbD (w - 1 - i))

/-- O30, R182. In a context that is not faulted: SPLEN outside 1 to 64 gives CONFIG, for a count of 0
too; else a range outside BM gives BM_RANGE; else BM[WP+i] takes SPARE[(SPLEN-1) - (i mod SPLEN)] for i
below w, WP advances, nothing else changes. -/
def Obligations.PackspResult : Prop :=
  ∀ (s : State) (n : BitVec 16), s.cur.fsr = 0 →
    let w := n.toNat
    let a := s.cur.wp.toNat
    let len := s.splen.toNat
    (len < 1 ∨ 64 < len → faultsWith (.packsp n) s 6) ∧
    (1 ≤ len → len ≤ 64 → s.params.bmBits < a + w → faultsWith (.packsp n) s 3) ∧
    (1 ≤ len → len ≤ 64 → a + w ≤ s.params.bmBits → ∃ t, exec (.packsp n) s = .next t ∧
      onlyBmCur s t a w { s.cur with wp := BitVec.ofNat 32 ((a + w) % 2 ^ 32) } ∧
      ∀ i, i < w → t.bit (a + i) = s.spare.getLsbD ((len - 1) - i % len))

/-- O31, R184. In a context that is not faulted QSCALE completes with x[rd] the low 64 bits of the
integer raw nearest to (v/2^64)*2^k, ties upward, v being q[qa], divided by PI_Q under SC; FOVF is set
exactly when raw does not fit 64 signed bits; nothing else changes. -/
def Obligations.QscaleResult : Prop :=
  ∀ (s : State) (rd : XReg) (qa : QReg) (k7 : BitVec 7) (sc : Bool), s.cur.fsr = 0 →
    let k := k7.toInt
    let half : Int := 2 ^ (63 - k).toNat
    let v := if sc = true then Int.fdiv (s.qval qa * 2 ^ 64) 0x3243F6A8885A308D3 else s.qval qa
    ∃ (t : State) (raw : Int), exec (.qscale rd qa k7 sc) s = .next t ∧ onlyX s t rd ∧
      raw * (2 * half) - half ≤ v ∧ v < raw * (2 * half) + half ∧
      t.xreg rd = BitVec.ofInt 64 raw ∧
      t.status = flagged (raw < -(2 ^ 63) ∨ 2 ^ 63 ≤ raw) .fovf s.status

/-- O32, R185. In a context that is not faulted, with the table not legal CONFIG is raised; else PWLQ
completes: below every segment the first code with FOVF; in segment sel, the code of the step at or
below the value (at or above, under U), the last code with FOVF above the last segment, the next
segment's first code in a gap; nothing else changes. -/
def Obligations.PwlqResult : Prop :=
  ∀ (s : State) (rd ra : XReg) (up : Bool), s.cur.fsr = 0 →
    let n := s.qtn.toNat
    let v := s.xval ra
    (quantiserIllegal s → faultsWith (.pwlq rd ra up) s 6) ∧
    (¬ quantiserIllegal s → ∃ t, exec (.pwlq rd ra up) s = .next t ∧ onlyX s t rd ∧
      ((∀ j, j < n → v < (s.segment j).lo) →
        (t.xreg rd).toNat = (s.segment 0).base ∧ t.status = s.status ||| 1) ∧
      ∀ sel idx, sel < n → (s.segment sel).lo ≤ v →
        (∀ j, sel < j → j < n → v < (s.segment j).lo) →
        (if up = true then
            v - (s.segment sel).lo ≤ idx * (s.segment sel).step ∧
              idx * (s.segment sel).step < v - (s.segment sel).lo + (s.segment sel).step
          else idx * (s.segment sel).step ≤ v - (s.segment sel).lo ∧
            v - (s.segment sel).lo < (idx + 1) * (s.segment sel).step) →
        (idx < (s.segment sel).cnt →
          (t.xreg rd).toNat = (s.segment sel).base + idx ∧ t.status = s.status) ∧
        ((s.segment sel).cnt ≤ idx → sel + 1 = n →
          (t.xreg rd).toNat = (s.segment sel).base + (s.segment sel).cnt - 1 ∧
            t.status = s.status ||| 1) ∧
        ((s.segment sel).cnt ≤ idx → sel + 1 < n →
          (t.xreg rd).toNat = (s.segment (sel + 1)).base ∧ t.status = s.status))

/-! The commands: FEC. -/

/-- O33, R230, R231. In a context that is not faulted, with the run inside BM, CRCR becomes the
remainder after the run's bits, first bit first, from 0 or (under C) from the present CRCR, by the step
of R230, and nothing else changes; outside BM, BM_RANGE. -/
def Obligations.Crc24Result : Prop :=
  ∀ (s : State) (ra rb : XReg) (cont : Bool), s.cur.fsr = 0 →
    let step1 := fun (crc : BitVec 24) (b : Bool) =>
      if xor (crc.getLsbD 23) b = true then BitVec.ofNat 24 (crc.toNat * 2) ^^^ s.crcPoly
      else BitVec.ofNat 24 (crc.toNat * 2)
    (s.params.bmBits < s.xval ra + s.xval rb → faultsWith (.crc24 ra rb cont) s 3) ∧
    (s.xval ra + s.xval rb ≤ s.params.bmBits → ∃ t, exec (.crc24 ra rb cont) s = .next t ∧
      onlyCur s t { s.cur with
        crcr := ((List.range (s.xval rb)).map fun i => s.bit (s.xval ra + i)).foldl step1
          (if cont = true then s.cur.crcr else 0) })

/-- O34, R232. In a context that is not faulted, with 24 bits free at WP: BM[WP+i] takes CRCR[23-i], WP
advances by 24 modulo 2^32, CRCR and everything else is unchanged; else BM_RANGE. -/
def Obligations.CrcputResult : Prop :=
  ∀ s : State, s.cur.fsr = 0 →
    let a := s.cur.wp.toNat
    (s.params.bmBits < a + 24 → faultsWith .crcput s 3) ∧
    (a + 24 ≤ s.params.bmBits → ∃ t, exec .crcput s = .next t ∧
      onlyBmCur s t a 24 { s.cur with wp := BitVec.ofNat 32 ((a + 24) % 2 ^ 32) } ∧
      ∀ i, i < 24 → t.bit (a + i) = s.cur.crcr.getLsbD (23 - i))

/-- O35, R87, R233, R234. In a context that is not faulted, with both ranges inside BM: for input bit i
the symbols at dst+2i and dst+2i+1 are the parities of the taps G1 and G2 select among the present and
the six past inputs (those before the run from CSR under K, else 0), the second inverted under NEG2; CSR
holds the last six inputs; nothing else changes; else BM_RANGE. -/
def Obligations.ConvResult : Prop :=
  ∀ (s : State) (rd ra rb : XReg) (keep : Bool), s.cur.fsr = 0 →
    let src := s.xval ra
    let dst := s.xval rd
    let n := s.xval rb
    let csr : BitVec 6 := if keep = true then s.cur.csr else 0
    (s.params.bmBits < src + n ∨ s.params.bmBits < dst + 2 * n →
      faultsWith (.conv rd ra rb keep) s 3) ∧
    (src + n ≤ s.params.bmBits → dst + 2 * n ≤ s.params.bmBits →
      ∃ t, exec (.conv rd ra rb keep) s = .next t ∧
        onlyBmCur s t dst (2 * n) { s.cur with csr := t.cur.csr } ∧
        (∀ back, 1 ≤ back → back ≤ 6 →
          t.cur.csr.getLsbD (6 - back) = convTap s csr src n back) ∧
        ∀ i, i < n →
          t.bit (dst + 2 * i) = convSymbol s csr src i (s.cur.convcfg.extractLsb' 0 7) ∧
          t.bit (dst + 2 * i + 1) =
            xor (convSymbol s csr src i (s.cur.convcfg.extractLsb' 8 7)) (s.cur.convcfg.getLsbD 16))

/-- O36, R237. In a context that is not faulted: CONFIG when the configuration is not legal, then
BM_RANGE; else cell (IWR+i) mod N takes the bit at src+i, of bits for one cell the last; every other
cell is unchanged, IWR advances by n modulo N, nothing else changes. -/
def Obligations.IlvwResult : Prop :=
  ∀ (s : State) (ra rb : XReg), s.cur.fsr = 0 →
    let src := s.xval ra
    let n := s.xval rb
    let size := ilvSize s.cur.ilvcfg
    (interleaverIllegal s.cur → faultsWith (.ilvw ra rb) s 6) ∧
    (¬ interleaverIllegal s.cur → s.params.bmBits < src + n → faultsWith (.ilvw ra rb) s 3) ∧
    (¬ interleaverIllegal s.cur → src + n ≤ s.params.bmBits →
      ∃ t, exec (.ilvw ra rb) s = .next t ∧
        onlyCur s t { s.cur with istore := t.cur.istore, iwr := t.cur.iwr } ∧
        t.cur.iwr.toNat = (s.cur.iwr.toNat + n) % size ∧
        (∀ i, i < n → n ≤ i + size →
          t.istoreBit ((s.cur.iwr.toNat + i) % size) = s.bit (src + i)) ∧
        ∀ c, (∀ i, i < n → (s.cur.iwr.toNat + i) % size ≠ c) → t.istoreBit c = s.istoreBit c)

/-- O37, R236, R238. In a context that is not faulted: CONFIG when the configuration is not legal, then
BM_RANGE; else BM[dst+i] takes the cell at the permutation of (IRD+i) mod N, IRD advances by n modulo N,
ISTORE and everything else is unchanged. -/
def Obligations.IlvrResult : Prop :=
  ∀ (s : State) (rd rb : XReg), s.cur.fsr = 0 →
    let dst := s.xval rd
    let n := s.xval rb
    let rows := (s.cur.ilvcfg.extractLsb' 0 11).toNat
    let cols := (s.cur.ilvcfg.extractLsb' 16 11).toNat
    let perm := fun o => if s.cur.ilvcfg.getLsbD 31 = true then o % rows * cols + o / rows
      else o % cols * rows + o / cols
    (interleaverIllegal s.cur → faultsWith (.ilvr rd rb) s 6) ∧
    (¬ interleaverIllegal s.cur → s.params.bmBits < dst + n → faultsWith (.ilvr rd rb) s 3) ∧
    (¬ interleaverIllegal s.cur → dst + n ≤ s.params.bmBits →
      ∃ t, exec (.ilvr rd rb) s = .next t ∧
        onlyBmCur s t dst n { s.cur with ird := t.cur.ird } ∧
        t.cur.ird.toNat = (s.cur.ird.toNat + n) % (rows * cols) ∧
        ∀ i, i < n →
          t.bit (dst + i) = s.istoreBit (perm ((s.cur.ird.toNat + i) % (rows * cols))))

/-! The commands: sequencer. -/

/-- O38, R201. In a context that is not faulted: CONFIG when TICK_HZ is not legal or BR is 0; else T2B
completes with x[rd] the low 64 bits of the least integer K with K*TICK_HZ at least t*BR, t signed; IOVF
is set exactly when K does not fit 64 signed bits; nothing else changes. -/
def Obligations.T2bResult : Prop :=
  ∀ (s : State) (rd ra : XReg), s.cur.fsr = 0 →
    (tickIllegal s ∨ s.cur.br = 0 → faultsWith (.t2b rd ra) s 6) ∧
    (¬ tickIllegal s → s.cur.br ≠ 0 → ∃ (t : State) (k : Int), exec (.t2b rd ra) s = .next t ∧
      onlyX s t rd ∧ t.xreg rd = BitVec.ofInt 64 k ∧
      (k - 1) * s.tickHz.toNat < s.xint ra * s.cur.br.toNat ∧
      s.xint ra * s.cur.br.toNat ≤ k * s.tickHz.toNat ∧
      t.status = flagged (k < -(2 ^ 63) ∨ 2 ^ 63 ≤ k) .iovf s.status)

/-- O39, R202, R203. In a context that is not faulted: SEEK raises CONFIG on PPB = 0 or an illegal
geometry, else leaves BOFF, PP, PG and SF at the mixed-radix digits of x[ra]; ADV raises CONFIG on an
illegal geometry, else sets BOFF to 0 and steps page part, then page, then subframe, a field at or
beyond its last value wrapping to 0; nothing else changes. -/
def Obligations.CursorResult : Prop :=
  ∀ (s : State) (ra : XReg), s.cur.fsr = 0 →
    let c := s.cur
    let parts := s.xval ra / c.ppb.toNat
    (c.ppb = 0 ∨ geometryIllegal c → faultsWith (.seek ra) s 6) ∧
    (c.ppb ≠ 0 → ¬ geometryIllegal c → ∃ t, exec (.seek ra) s = .next t ∧
      onlyCur s t { c with boff := t.cur.boff, pp := t.cur.pp, pg := t.cur.pg, sf := t.cur.sf } ∧
      t.cur.boff.toNat = s.xval ra % c.ppb.toNat ∧ t.cur.pp.toNat = parts % c.npp.toNat ∧
      t.cur.pg.toNat = parts / c.npp.toNat % c.pgs.toNat ∧
      t.cur.sf.toNat = parts / (c.npp.toNat * c.pgs.toNat) % c.sfs.toNat) ∧
    (geometryIllegal c → faultsWith .adv s 6) ∧
    (¬ geometryIllegal c → ∃ t, exec .adv s = .next t ∧
      onlyCur s t { c with boff := 0, pp := t.cur.pp, pg := t.cur.pg, sf := t.cur.sf } ∧
      (t.cur.pp.toNat, t.cur.pg.toNat, t.cur.sf.toNat) =
        if c.pp.toNat + 1 < c.npp.toNat then (c.pp.toNat + 1, c.pg.toNat, c.sf.toNat)
        else if c.pg.toNat + 1 < c.pgs.toNat then (0, c.pg.toNat + 1, c.sf.toNat)
        else if c.sf.toNat + 1 < c.sfs.toNat then (0, 0, c.sf.toNat + 1) else (0, 0, 0))

/-- O40, R205, R206. In a context that is not faulted WTYPE leaves in x[rd] the low byte of PFT[PG] when
SF is even and the high byte when it is odd; ALMIDX leaves AIT[SF], zero-extended; neither sets a flag
or changes anything else. -/
def Obligations.TableLookups : Prop :=
  ∀ (s : State) (rd : XReg), s.cur.fsr = 0 →
    (∃ t, exec (.wtype rd) s = .next t ∧ onlyX s t rd ∧ t.status = s.status ∧
      (t.xreg rd).toNat =
        if s.cur.sf.toNat % 2 = 0 then (s.pftEntry s.cur.pg.toNat).toNat % 256
        else (s.pftEntry s.cur.pg.toNat).toNat / 256) ∧
    (∃ t, exec (.almidx rd) s = .next t ∧ onlyX s t rd ∧ t.status = s.status ∧
      (t.xreg rd).toNat = (s.aitEntry s.cur.sf.toNat).toNat)

/-- O41, R207. In a context that is not faulted, with both ranges inside BM, BM[dst+i] takes the old
BM[src+i] for i below n, overlap or not, and nothing else changes; else BM_RANGE, for n = 0 too. -/
def Obligations.BcopyResult : Prop :=
  ∀ (s : State) (rd ra rb : XReg), s.cur.fsr = 0 →
    let src := s.xval ra
    let dst := s.xval rd
    let n := s.xval rb
    (s.params.bmBits < src + n ∨ s.params.bmBits < dst + n →
      faultsWith (.bcopy rd ra rb) s 3) ∧
    (src + n ≤ s.params.bmBits → dst + n ≤ s.params.bmBits →
      ∃ t, exec (.bcopy rd ra rb) s = .next t ∧ onlyBm s t dst n ∧
        ∀ i, i < n → t.bit (dst + i) = s.bit (src + i))

/-- O42, R208. In a context that is not faulted: a pattern of length 0 gives CONFIG; else a range
outside BM gives BM_RANGE; else BM[dst+k] takes the old pattern bit (K0+k) mod L for k below n, K0+k not
wrapping, and nothing else changes. -/
def Obligations.TileResult : Prop :=
  ∀ (s : State) (rd ra rb rc re : XReg), s.cur.fsr = 0 →
    let dst := s.xval rd
    let base := s.xval ra
    let len := s.xval rb
    let n := s.xval re
    (len = 0 → faultsWith (.tile rd ra rb rc re) s 6) ∧
    (len ≠ 0 → s.params.bmBits < base + len ∨ s.params.bmBits < dst + n →
      faultsWith (.tile rd ra rb rc re) s 3) ∧
    (len ≠ 0 → base + len ≤ s.params.bmBits → dst + n ≤ s.params.bmBits →
      ∃ t, exec (.tile rd ra rb rc re) s = .next t ∧ onlyBm s t dst n ∧
        ∀ k, k < n → t.bit (dst + k) = s.bit (base + (s.xval rc + k) % len))

/-! The commands: modulation. -/

/-- O43, R260, R261. For the slice that starts at T0 the code-table entries elapsed at sample j, the
entry of the primary table, the chip of the secondary code and the position of the navigation bit are
the floor divisions of R260 and R261, with T0 and NK counted only under ABS (that NK_s is unsigned is
the model's reading, log 9). -/
def Obligations.ModTimeIndices : Prop :=
  ∀ (s : State) (t0 : Int) (j : Nat) (k : Component) (st : NavStream),
    let job := s.modJob t0
    let sig := s.catalog s.cur.sigt.toNat
    let hz : Int := s.tickHz.toNat
    let tnum : Int := (if s.cur.mflags = 1 then t0 else 0) * sig.modRate + j * hz
    let e := Int.fdiv (tnum * sig.chipRate * s.cur.spc.toNat) (sig.modRate * hz)
    job.base.entries sig.chipRate s.cur.spc.toNat j = e ∧
      tableIndex e k = (e % (k.cl.toNat : Int)).toNat ∧
      chipIndex e k = (Int.fdiv e k.cl.toNat % (k.sl.toNat : Int)).toNat ∧
      bitOffset job.base job.abs st j = navOffset s t0 st j

/-- O44, R260, R261, R262, R263, R265. In a context that is not faulted, when none of the causes of R265
holds, MOD completes: sample dst+j is the exact sum, I and Q, of the terms of the components in use at
sample j (no sum leaves 32 bits), a term being the sign of its navigation bit times the sign of its
secondary chip times its table entry, real or complex; every other sample and everything else is
unchanged (that NK_s is unsigned is the model's reading, log 9). -/
def Obligations.ModResult : Prop :=
  ∀ (s : State) (rd ra rb : XReg), s.cur.fsr = 0 → ¬ signalUnsupported s →
    ¬ modConfigIllegal s → ¬ modBmOutside s → ¬ modCmOutside s →
    s.xval rd + s.xval rb ≤ s.params.smSamples → ¬ modBitOutside s (s.xint ra) (s.xval rb) →
    let dst := s.xval rd
    let t0 := s.xint ra
    let sig := s.catalog s.cur.sigt.toNat
    let hz : Int := s.tickHz.toNat
    let sign := fun b : Bool => 1 - 2 * (b.toNat : Int)
    let table := fun a : Nat => (s.codeWord a).toInt
    let tnum := fun j : Nat => (if s.cur.mflags = 1 then t0 else 0) * sig.modRate + j * hz
    let e := fun j : Nat => Int.fdiv (tnum j * sig.chipRate * s.cur.spc.toNat) (sig.modRate * hz)
    let p := fun (k : Component) (j : Nat) => (e j % k.cl.toNat).toNat
    let navBit := fun (st : NavStream) (j : Nat) => s.bit (st.nb.toNat + (navOffset s t0 st j).toNat)
    let d := fun (k : Component) (j : Nat) =>
      if k.ds = 1 then sign (navBit s.cur.strA j) else if k.ds = 2 then sign (navBit s.cur.strB j)
      else 1
    let c := fun (k : Component) (j : Nat) => if k.sl = 0 then 1
      else sign (s.bit (k.sb.toNat + (Int.fdiv (e j) k.cl.toNat % k.sl.toNat).toNat))
    let termI := fun (j : Nat) (k : Component) => d k j * c k j *
      (if sig.scheme = 2 then table (k.cb.toNat + 2 * p k j) else table (k.cb.toNat + p k j))
    let termQ := fun (j : Nat) (k : Component) =>
      if sig.scheme = 2 then d k j * c k j * table (k.cb.toNat + 2 * p k j + 1) else 0
    ∃ t, exec (.mod rd ra rb) s = .next t ∧ t = { s with sm := t.sm, lastst := 0 } ∧
      (∀ a, a < dst ∨ dst + s.xval rb ≤ a → t.sample a = s.sample a) ∧
      ∀ j, j < s.xval rb →
        (t.sample (dst + j)).i.toInt = ((s.cur.comp.toList.take s.cur.ncomp.toNat).map (termI j)).sum ∧
        (t.sample (dst + j)).q.toInt = ((s.cur.comp.toList.take s.cur.ncomp.toNat).map (termQ j)).sum

/-- O45, R266. In a context that is not faulted: no supported signal gives UNSUPPORTED_SIGNAL; else an
illegal TICK_HZ gives CONFIG; else x[rd] is the low 64 bits of the greatest v with v*TICK_HZ at most
MODRATE*MAXTT, IOVF is set exactly when v is 2^64 or more, nothing else changes. -/
def Obligations.ModofsResult : Prop :=
  ∀ (s : State) (rd : XReg), s.cur.fsr = 0 →
    (signalUnsupported s → faultsWith (.modofs rd) s 1) ∧
    (¬ signalUnsupported s → tickIllegal s → faultsWith (.modofs rd) s 6) ∧
    (¬ signalUnsupported s → ¬ tickIllegal s →
      ∃ (t : State) (v : Nat), exec (.modofs rd) s = .next t ∧ onlyX s t rd ∧
        t.xreg rd = BitVec.ofNat 64 v ∧
        v * s.tickHz.toNat ≤ (s.catalog s.cur.sigt.toNat).modRate * s.maxtt.toNat ∧
        (s.catalog s.cur.sigt.toNat).modRate * s.maxtt.toNat < (v + 1) * s.tickHz.toNat ∧
        t.status = flagged (2 ^ 64 ≤ v) .iovf s.status)

/-! The commands: orbit. -/

/-- O46, R33, R146, R150, R151. In every state, faulted or not, KEPLER completes and changes nothing but
q[qd], KITER and sticky flags; for 0 <= e < 1 q[qd] is the result of the iteration, in the wrapped
range, and KITER its iteration count, from 1 to 64. -/
def Obligations.KeplerResult : Prop :=
  ∀ (s : State) (qd qa qb : QReg), ∃ t, exec (.kepler qd qa qb) s = .next t ∧ onlyQ s t qd ∧
    (legalEcc (s.qval qb) →
      let r := (kepler (s.qval qa) (s.qval qb)).run s.status
      t.qval qd = r.1.1 ∧ t.kiter.toNat = r.1.2 ∧ t.status = r.2 ∧
        1 ≤ t.kiter.toNat ∧ t.kiter.toNat ≤ 64 ∧
        -0x3243F6A8885A308D3 + 1 ≤ t.qval qd ∧ t.qval qd ≤ 0x3243F6A8885A308D3)

/-- O47, R23, R154, R155, R156, R157, R158, R159, R160. In every state, faulted or not, PROP completes
and changes nothing but q16 to q23, KITER and sticky flags; for 0 <= e < 1 these hold position,
velocity, eccentric anomaly and duration as R155 to R159 compute them, operation by operation, without
truncation, E in the wrapped range; with TICK_HZ = 0 both times are 0 and DIVZ is set (that a TICK_HZ of
2^63 or more is read as it is is the model's reading, log 13). -/
def Obligations.PropResult : Prop :=
  ∀ (s : State) (ra rb : XReg), ∃ t, exec (.prop ra rb) s = .next t ∧
    t = { s with q := t.q, kiter := t.kiter, status := t.status, lastst := 0 } ∧
    (∀ r : QReg, r.toNat < 16 ∨ 23 < r.toNat → t.qval r = s.qval r) ∧
    (legalEcc (s.qval 1) →
      let pi : Int := 0x3243F6A8885A308D3
      let wrapped := fun v : Int => (v + pi - 1) % (2 * pi) - pi + 1
      let hz : Int := s.tickHz.toNat
      let epoch := s.xint ra
      let toa := s.xint rb
      let sqrtA := s.qval 0
      let ecc := s.qval 1
      let i0 := s.qval 2
      let idot := s.qval 3
      let omega0 := s.qval 4
      let omegadot := s.qval 5
      let w := s.qval 6
      let m0 := s.qval 7
      let dn := s.qval 8
      let sqrtGm := s.qval 24
      let omegaE := s.qval 25
      let quotient := Int.fdiv ((epoch - toa) * 2 ^ 64) hz
      let tk := if hz = 0 then 0 else (quotient + 2 ^ 127) % 2 ^ 128 - 2 ^ 127
      let toasow := if hz = 0 then 0 else Int.fdiv (toa % (604800 * hz) * 2 ^ 64) hz
      let flags := if hz = 0 then s.status ||| 4
        else flagged (quotient < -(2 ^ 127) ∨ 2 ^ 127 ≤ quotient) .qovf s.status
      let orbit : FxM OrbitState := do
        let a ← fxMul sqrtA sqrtA
        let a3 ← fxMul a sqrtA
        let n ← fxAdd (← fxDiv sqrtGm a3) dn
        let m := wrapped (← fxAdd m0 (← fxMul n tk))
        let (ea, it) ← kepler m ecc
        let sE := fxSin ea
        let cE ← fxCos ea
        let den ← fxSub (2 ^ 64) (← fxMul ecc cE)
        let r ← fxMul a den
        let root ← fxSqrt (← fxSub (2 ^ 64) (← fxMul ecc ecc))
        let cv ← fxDiv (← fxSub cE ecc) den
        let sv ← fxDiv (← fxMul root sE) den
        let cw ← fxCos w
        let sw := fxSin w
        let cu ← fxSub (← fxMul cv cw) (← fxMul sv sw)
        let su ← fxAdd (← fxMul sv cw) (← fxMul cv sw)
        let xp ← fxMul r cu
        let yp ← fxMul r su
        let inc ← fxAdd i0 (← fxMul idot tk)
        let ci ← fxCos inc
        let si := fxSin inc
        let odk ← fxSub omegadot omegaE
        let om := wrapped (← fxSub (← fxAdd omega0 (← fxMul odk tk)) (← fxMul omegaE toasow))
        let cO ← fxCos om
        let sO := fxSin om
        let ypci ← fxMul yp ci
        let x ← fxSub (← fxMul xp cO) (← fxMul ypci sO)
        let y ← fxAdd (← fxMul xp sO) (← fxMul ypci cO)
        let z ← fxMul yp si
        let edot ← fxDiv n den
        let vdot ← fxDiv (← fxMul root edot) den
        let rdot ← fxMul (← fxMul (← fxMul a ecc) sE) edot
        let xpd ← fxSub (← fxMul rdot cu) (← fxMul yp vdot)
        let ypd ← fxAdd (← fxMul rdot su) (← fxMul xp vdot)
        let ypdci ← fxMul ypd ci
        let ypsi ← fxMul yp si
        let t3 ← fxMul (← fxMul ypsi sO) idot
        let t4 ← fxMul (← fxMul ypsi cO) idot
        let vx ← fxSub (← fxAdd (← fxSub (← fxMul xpd cO) (← fxMul ypdci sO)) t3) (← fxMul y odk)
        let vy ← fxAdd (← fxSub (← fxAdd (← fxMul xpd sO) (← fxMul ypdci cO)) t4) (← fxMul x odk)
        let vz ← fxAdd (← fxMul ypd si) (← fxMul ypci idot)
        pure { px := x, py := y, pz := z, vx := vx, vy := vy, vz := vz, ea := ea, tk := tk, it := it }
      let o := orbit.run flags
      t.qval 16 = o.1.px ∧ t.qval 17 = o.1.py ∧ t.qval 18 = o.1.pz ∧ t.qval 19 = o.1.vx ∧
        t.qval 20 = o.1.vy ∧ t.qval 21 = o.1.vz ∧ t.qval 22 = o.1.ea ∧ t.qval 23 = tk ∧
        t.kiter.toNat = o.1.it ∧ t.status = o.2 ∧
        -pi + 1 ≤ t.qval 22 ∧ t.qval 22 ≤ pi)

/-- O48, R162. In every state, faulted or not, RELDLY completes and changes nothing but q[qd] and sticky
flags, KITER included; for 0 <= e < 1 q[qd] is 2*sqrt(GM)/c*sqrtA*e*sin(E), each operation as R162
writes it. -/
def Obligations.ReldlyResult : Prop :=
  ∀ (s : State) (qd : QReg), ∃ t, exec (.reldly qd) s = .next t ∧ onlyQ s t qd ∧
    t.kiter = s.kiter ∧
    (legalEcc (s.qval 1) →
      let value : FxM Int := do
        let t1 ← fxDiv (s.qval 24) (s.qval 26)
        let t2 ← fxAdd t1 t1
        let t3 ← fxMul t2 (s.qval 0)
        let t4 ← fxMul t3 (s.qval 1)
        fxMul t4 (fxSin (s.qval 22))
      t.qval qd = (value.run s.status).1 ∧ t.status = (value.run s.status).2)

/-- O49, R161. Two states that agree on x[ra], x[rb], q0 to q8, q24, q25 and TICK_HZ, and may differ in
everything else (contexts, CTX, memories, STATUS, earlier results), give the same q16 to q23 and KITER,
for 0 <= e < 1. -/
def Obligations.PropIndependent : Prop :=
  ∀ (s u : State) (ra rb : XReg), legalEcc (s.qval 1) → s.xreg ra = u.xreg ra →
    s.xreg rb = u.xreg rb → (∀ r : QReg, r.toNat ≤ 8 ∨ r = 24 ∨ r = 25 → s.qval r = u.qval r) →
    s.tickHz = u.tickHz → ∃ t v, exec (.prop ra rb) s = .next t ∧ exec (.prop ra rb) u = .next v ∧
      t.kiter = v.kiter ∧ ∀ r : QReg, 16 ≤ r.toNat → r.toNat ≤ 23 → t.qval r = v.qval r

/-- O50, R144. For a from 0 up to 2^127 the result is the largest s with s*s at most a*2^64, below
2^127, and no flag is set; for a negative a the result is 0 with NEGSQRT. -/
def Obligations.SquareRoot : Prop :=
  ∀ (a : Int) (st : BitVec 8), a < 2 ^ 127 →
    (0 ≤ a → ∃ r : Int, (fxSqrt a).run st = (r, st) ∧ 0 ≤ r ∧ r < 2 ^ 127 ∧
      r * r ≤ a * 2 ^ 64 ∧ a * 2 ^ 64 < (r + 1) * (r + 1)) ∧
    (a < 0 → (fxSqrt a).run st = (0, st ||| 0x20))

/-- O51, R146, R150, R151. For every e with 0 <= e < 1 the solution at M = PI_Q is PI_Q after 1
iteration, no flag set; with e = 0 the solution is wrap_pi(M) after at most 2 iterations, no flag set.
-/
def Obligations.KeplerCornerCases : Prop :=
  ∀ (m e : Int) (st : BitVec 8),
    (legalEcc e → (kepler 0x3243F6A8885A308D3 e).run st = ((0x3243F6A8885A308D3, 1), st)) ∧
      ∃ it, it ≤ 2 ∧ (kepler m 0).run st = ((wrapPi m, it), st)

/-! Laws the spec derives. -/

/-- O52, R204. With a legal geometry SEEK of K then ADV leaves the SF, PG and PP that SEEK of K + PPB
leaves, and BOFF = 0; and m advances after seeking K reach the cursor of seeking K + m*PPB. -/
def Obligations.SeekThenAdvance : Prop :=
  (∀ (s : State) (ra rb : XReg), s.cur.fsr = 0 → s.cur.ppb ≠ 0 → ¬ geometryIllegal s.cur →
    s.xval rb = s.xval ra + s.cur.ppb.toNat →
      ∃ t u v, exec (.seek ra) s = .next t ∧ exec .adv t = .next u ∧ exec (.seek rb) s = .next v ∧
        u.cur.sf = v.cur.sf ∧ u.cur.pg = v.cur.pg ∧ u.cur.pp = v.cur.pp ∧ u.cur.boff = 0) ∧
  ∀ (c : Context) (k m : Nat), c.ppb ≠ 0 → ¬ geometryIllegal c →
    let walked := Nat.iterate Context.advance m (c.seekTo k)
    let sought := c.seekTo (k + m * c.ppb.toNat)
    walked.sf = sought.sf ∧ walked.pg = sought.pg ∧ walked.pp = sought.pp

/-- O53, R233, R234, R235. Encoding us and then vs from the register us left gives the symbols and the
register of encoding us followed by vs; after any input that ends in six zero bits the register is 0. -/
def Obligations.EncoderLaws : Prop :=
  ∀ (cfg : BitVec 17) (csr : BitVec 6) (us vs : List Bool),
    convRun cfg csr (us ++ vs) =
        ((convRun cfg (convRun cfg csr us).1 vs).1,
          (convRun cfg csr us).2 ++ (convRun cfg (convRun cfg csr us).1 vs).2) ∧
      (convRun cfg csr (us ++ List.replicate 6 false)).1 = 0

/-- O54, R236. For an output position below N the permuted position is below N, and applying the
permutation of the other direction gives the position back. -/
def Obligations.InterleaverPermutation : Prop :=
  ∀ (rows cols : Nat) (dir : Bool) (o : Nat), o < rows * cols →
    ilvPerm rows cols dir o < rows * cols ∧
      ilvPerm rows cols (!dir) (ilvPerm rows cols dir o) = o

/-- O55, R236, R239. From IWR = IRD = 0 with a legal configuration, ILVW of exactly N bits followed by
ILVR of N bits leaves output bit o equal to input bit perm(o), and both cursors 0. -/
def Obligations.InterleaverBlock : Prop :=
  ∀ (s : State) (ra rb rd : XReg), s.cur.fsr = 0 → ¬ interleaverIllegal s.cur →
    s.cur.iwr = 0 → s.cur.ird = 0 → s.xval rb = ilvSize s.cur.ilvcfg →
    s.xval ra + s.xval rb ≤ s.params.bmBits → s.xval rd + s.xval rb ≤ s.params.bmBits →
      ∃ t u, exec (.ilvw ra rb) s = .next t ∧ exec (.ilvr rd rb) t = .next u ∧
        u.cur.iwr = 0 ∧ u.cur.ird = 0 ∧
        ∀ o, o < ilvSize s.cur.ilvcfg → u.bit (s.xval rd + o) =
          s.bit (s.xval ra + ilvPerm (ilvRows s.cur.ilvcfg) (ilvCols s.cur.ilvcfg)
            (ilvDir s.cur.ilvcfg) o)

/-- O56, R230, R231, R243. From a zero remainder, for every polynomial and every run of bits, the run
followed by the 24 bits of its remainder, most significant first, leaves the remainder 0. -/
def Obligations.CrcSelfCheck : Prop :=
  ∀ (poly : BitVec 24) (bits : List Bool),
    crcBits poly 0 (bits ++ msbBits 24 (crcBits poly 0 bits).toNat) = 0

/-- O57, R201, R210. For positive rates, bit k starts at or after start and before stop exactly when
T2B(start) <= k < T2B(stop), in exact arithmetic: adjacent intervals partition the bits. -/
def Obligations.SliceBitsPartition : Prop :=
  ∀ (start stop k : Int) (br hz : Nat), 0 < br → 0 < hz →
    ((start * br ≤ k * hz ∧ k * hz < stop * br) ↔
      timeToBit start br hz ≤ k ∧ k < timeToBit stop br hz)

/-- O58, R180, R184, R187. When QSCALE (without SC) and then PACK.S of its result both complete without
FOVF, the w bits written, read back as a signed number and scaled back, differ from q[qa] by at most
2^(63-k). -/
def Obligations.QscaleRoundTrip : Prop :=
  ∀ (s t u : State) (rd : XReg) (qa : QReg) (k7 : BitVec 7) (wm1 : BitVec 6), s.cur.fsr = 0 →
    exec (.qscale rd qa k7 false) s = .next t → exec (.pack rd true wm1) t = .next u →
    u.lastst = 0 → u.status.getLsbD 0 = false →
      let w := wm1.toNat + 1
      let back := (BitVec.ofNat w (u.memRead s.cur.wp.toNat w)).toInt
      let step := (2 : Int) ^ (64 - k7.toInt).toNat
      back * step - s.qval qa ≤ 2 ^ (63 - k7.toInt).toNat ∧
        s.qval qa - back * step ≤ 2 ^ (63 - k7.toInt).toNat

/-! The fixed-point primitives and the Kepler iteration. -/

/-- O59, R141, R142, R143, R147, R148, R149. fx_add, fx_sub, fx_mul and fx_div by a non-zero number give
the exact sum, difference and floored product and quotient, reduced to 128 signed bits, with QOVF
exactly when that changed the value; a division by 0 gives 0 with DIVZ; fx_cos(a) is fx_sin of fx_add(a,
HALF_PI_Q); fx_sin(a) is the sum of the 14 terms of the series of R147, of which no fx_mul sets a flag
and whose sum fits 128 bits. -/
def Obligations.FixedPointPrimitives : Prop :=
  ∀ (a b : Int) (st : BitVec 8),
    let pi : Int := 0x3243F6A8885A308D3
    let halfPi : Int := 0x1921FB54442D18469
    let reduced := fun v : Int => ((v + 2 ^ 127) % 2 ^ 128 - 2 ^ 127,
      flagged (v < -(2 ^ 127) ∨ 2 ^ 127 ≤ v) .qovf st)
    (fxAdd a b).run st = reduced (a + b) ∧ (fxSub a b).run st = reduced (a - b) ∧
    (fxMul a b).run st = reduced (Int.fdiv (a * b) (2 ^ 64)) ∧
    (b = 0 → (fxDiv a b).run st = (0, st ||| 4)) ∧
    (b ≠ 0 → (fxDiv a b).run st = reduced (Int.fdiv (a * 2 ^ 64) b)) ∧
    (fxCos a).run st = (fxSin (reduced (a + halfPi)).1, (reduced (a + halfPi)).2) ∧
    let y := (a + pi - 1) % (2 * pi) - pi + 1
    let z := if halfPi < y then pi - y else if y < -halfPi then -pi - y else y
    ∃ (z2 : Int) (term prod : Nat → Int), (fxMul z z).run st = (z2, st) ∧ term 0 = z ∧
      (∀ k : Nat, 1 ≤ k → k ≤ 13 → (fxMul (term (k - 1)) z2).run st = (prod k, st) ∧
        term k = Int.fdiv (-(prod k)) ((2 * k) * (2 * k + 1))) ∧
      fxSin a = ((List.range 14).map term).sum ∧
      -(2 ^ 127) ≤ fxSin a ∧ fxSin a < 2 ^ 127

/-- O60, R150. For 0 <= e < 1: from E = PI_Q or -PI_Q, as the wrapped mean anomaly is not negative or
negative, there is a number n of Newton steps of R150 from 1 to 64 of which only the last may have a
step d within 2^24, n being 64 unless it has; the result is wrap_pi of the E they leave, the iteration
count n, and the flags the primitives set, with NOCONV exactly when d is not within 2^24. -/
def Obligations.KeplerIteration : Prop :=
  ∀ (manom e : Int) (st : BitVec 8), legalEcc e →
    let pi : Int := 0x3243F6A8885A308D3
    let m := (manom + pi - 1) % (2 * pi) - pi + 1
    let newton : Int → FxM (Int × Int) := fun ea => do
      let sine := fxSin ea
      let cosine ← fxCos ea
      let es ← fxMul e sine
      let g ← fxSub ea es
      let f ← fxSub g m
      let ec ← fxMul e cosine
      let fp ← fxSub (2 ^ 64) ec
      let d ← fxDiv f fp
      let ea' ← fxSub ea d
      pure (d, ea')
    let after := fun n : Nat => Nat.iterate (fun r : (Int × Int) × BitVec 8 => (newton r.1.2).run r.2) n
      ((0, if 0 ≤ m then pi else -pi), st)
    ∃ n : Nat, 1 ≤ n ∧ n ≤ 64 ∧ (∀ i, 1 ≤ i → i < n → 2 ^ 24 < |(after i).1.1|) ∧
      (n = 64 ∨ |(after n).1.1| ≤ 2 ^ 24) ∧
      (kepler manom e).run st = ((((after n).1.2 + pi - 1) % (2 * pi) - pi + 1, n),
        flagged (2 ^ 24 < |(after n).1.1|) .noconv (after n).2)
end

