-- ==== Sys2Proof/Laws/State.lean ====
section
/-! SUPPORT. What each update of the state leaves in each field: one lemma per field per update. -/

namespace Sys2Proof.Machine

variable (s : State)

/-! `State.setX`. -/

@[simp] theorem State.setX_x (r : XReg) (v : Int) :
    (s.setX r v).x = s.x.set r.toNat (BitVec.ofInt 64 v) r.isLt := rfl
@[simp] theorem State.setX_q (r : XReg) (v : Int) : (s.setX r v).q = s.q := rfl
@[simp] theorem State.setX_ctx (r : XReg) (v : Int) : (s.setX r v).ctx = s.ctx := rfl
@[simp] theorem State.setX_status (r : XReg) (v : Int) : (s.setX r v).status = s.status := rfl
@[simp] theorem State.setX_tickHz (r : XReg) (v : Int) : (s.setX r v).tickHz = s.tickHz := rfl
@[simp] theorem State.setX_maxtt (r : XReg) (v : Int) : (s.setX r v).maxtt = s.maxtt := rfl
@[simp] theorem State.setX_crcPoly (r : XReg) (v : Int) : (s.setX r v).crcPoly = s.crcPoly := rfl
@[simp] theorem State.setX_spare (r : XReg) (v : Int) : (s.setX r v).spare = s.spare := rfl
@[simp] theorem State.setX_splen (r : XReg) (v : Int) : (s.setX r v).splen = s.splen := rfl
@[simp] theorem State.setX_kiter (r : XReg) (v : Int) : (s.setX r v).kiter = s.kiter := rfl
@[simp] theorem State.setX_lastst (r : XReg) (v : Int) : (s.setX r v).lastst = s.lastst := rfl
@[simp] theorem State.setX_qtn (r : XReg) (v : Int) : (s.setX r v).qtn = s.qtn := rfl
@[simp] theorem State.setX_banks (r : XReg) (v : Int) : (s.setX r v).banks = s.banks := rfl
@[simp] theorem State.setX_bm (r : XReg) (v : Int) : (s.setX r v).bm = s.bm := rfl
@[simp] theorem State.setX_cm (r : XReg) (v : Int) : (s.setX r v).cm = s.cm := rfl
@[simp] theorem State.setX_sm (r : XReg) (v : Int) : (s.setX r v).sm = s.sm := rfl
@[simp] theorem State.setX_qt (r : XReg) (v : Int) : (s.setX r v).qt = s.qt := rfl
@[simp] theorem State.setX_scat (r : XReg) (v : Int) : (s.setX r v).scat = s.scat := rfl
@[simp] theorem State.setX_params (r : XReg) (v : Int) : (s.setX r v).params = s.params := rfl
@[simp] theorem State.setX_resets (r : XReg) (v : Int) : (s.setX r v).resets = s.resets := rfl
@[simp] theorem State.setX_pending (r : XReg) (v : Int) : (s.setX r v).pending = s.pending := rfl
@[simp] theorem State.setX_responses (r : XReg) (v : Int) :
    (s.setX r v).responses = s.responses := rfl

/-! `State.setQ`. -/

@[simp] theorem State.setQ_x (r : QReg) (v : Int) : (s.setQ r v).x = s.x := rfl
@[simp] theorem State.setQ_q (r : QReg) (v : Int) :
    (s.setQ r v).q = s.q.set r.toNat (BitVec.ofInt 128 v) r.isLt := rfl
@[simp] theorem State.setQ_ctx (r : QReg) (v : Int) : (s.setQ r v).ctx = s.ctx := rfl
@[simp] theorem State.setQ_status (r : QReg) (v : Int) : (s.setQ r v).status = s.status := rfl
@[simp] theorem State.setQ_tickHz (r : QReg) (v : Int) : (s.setQ r v).tickHz = s.tickHz := rfl
@[simp] theorem State.setQ_maxtt (r : QReg) (v : Int) : (s.setQ r v).maxtt = s.maxtt := rfl
@[simp] theorem State.setQ_crcPoly (r : QReg) (v : Int) : (s.setQ r v).crcPoly = s.crcPoly := rfl
@[simp] theorem State.setQ_spare (r : QReg) (v : Int) : (s.setQ r v).spare = s.spare := rfl
@[simp] theorem State.setQ_splen (r : QReg) (v : Int) : (s.setQ r v).splen = s.splen := rfl
@[simp] theorem State.setQ_kiter (r : QReg) (v : Int) : (s.setQ r v).kiter = s.kiter := rfl
@[simp] theorem State.setQ_lastst (r : QReg) (v : Int) : (s.setQ r v).lastst = s.lastst := rfl
@[simp] theorem State.setQ_qtn (r : QReg) (v : Int) : (s.setQ r v).qtn = s.qtn := rfl
@[simp] theorem State.setQ_banks (r : QReg) (v : Int) : (s.setQ r v).banks = s.banks := rfl
@[simp] theorem State.setQ_bm (r : QReg) (v : Int) : (s.setQ r v).bm = s.bm := rfl
@[simp] theorem State.setQ_cm (r : QReg) (v : Int) : (s.setQ r v).cm = s.cm := rfl
@[simp] theorem State.setQ_sm (r : QReg) (v : Int) : (s.setQ r v).sm = s.sm := rfl
@[simp] theorem State.setQ_qt (r : QReg) (v : Int) : (s.setQ r v).qt = s.qt := rfl
@[simp] theorem State.setQ_scat (r : QReg) (v : Int) : (s.setQ r v).scat = s.scat := rfl
@[simp] theorem State.setQ_params (r : QReg) (v : Int) : (s.setQ r v).params = s.params := rfl
@[simp] theorem State.setQ_resets (r : QReg) (v : Int) : (s.setQ r v).resets = s.resets := rfl
@[simp] theorem State.setQ_pending (r : QReg) (v : Int) : (s.setQ r v).pending = s.pending := rfl
@[simp] theorem State.setQ_responses (r : QReg) (v : Int) :
    (s.setQ r v).responses = s.responses := rfl

/-! `State.setStatus`. -/

@[simp] theorem State.setStatus_x (st : BitVec 8) : (s.setStatus st).x = s.x := rfl
@[simp] theorem State.setStatus_q (st : BitVec 8) : (s.setStatus st).q = s.q := rfl
@[simp] theorem State.setStatus_ctx (st : BitVec 8) : (s.setStatus st).ctx = s.ctx := rfl
@[simp] theorem State.setStatus_status (st : BitVec 8) : (s.setStatus st).status = st := rfl
@[simp] theorem State.setStatus_tickHz (st : BitVec 8) : (s.setStatus st).tickHz = s.tickHz := rfl
@[simp] theorem State.setStatus_maxtt (st : BitVec 8) : (s.setStatus st).maxtt = s.maxtt := rfl
@[simp] theorem State.setStatus_crcPoly (st : BitVec 8) :
    (s.setStatus st).crcPoly = s.crcPoly := rfl
@[simp] theorem State.setStatus_spare (st : BitVec 8) : (s.setStatus st).spare = s.spare := rfl
@[simp] theorem State.setStatus_splen (st : BitVec 8) : (s.setStatus st).splen = s.splen := rfl
@[simp] theorem State.setStatus_kiter (st : BitVec 8) : (s.setStatus st).kiter = s.kiter := rfl
@[simp] theorem State.setStatus_lastst (st : BitVec 8) : (s.setStatus st).lastst = s.lastst := rfl
@[simp] theorem State.setStatus_qtn (st : BitVec 8) : (s.setStatus st).qtn = s.qtn := rfl
@[simp] theorem State.setStatus_banks (st : BitVec 8) : (s.setStatus st).banks = s.banks := rfl
@[simp] theorem State.setStatus_bm (st : BitVec 8) : (s.setStatus st).bm = s.bm := rfl
@[simp] theorem State.setStatus_cm (st : BitVec 8) : (s.setStatus st).cm = s.cm := rfl
@[simp] theorem State.setStatus_sm (st : BitVec 8) : (s.setStatus st).sm = s.sm := rfl
@[simp] theorem State.setStatus_qt (st : BitVec 8) : (s.setStatus st).qt = s.qt := rfl
@[simp] theorem State.setStatus_scat (st : BitVec 8) : (s.setStatus st).scat = s.scat := rfl
@[simp] theorem State.setStatus_params (st : BitVec 8) : (s.setStatus st).params = s.params := rfl
@[simp] theorem State.setStatus_resets (st : BitVec 8) : (s.setStatus st).resets = s.resets := rfl
@[simp] theorem State.setStatus_pending (st : BitVec 8) :
    (s.setStatus st).pending = s.pending := rfl
@[simp] theorem State.setStatus_responses (st : BitVec 8) :
    (s.setStatus st).responses = s.responses := rfl

/-! `State.flagIf`. -/

@[simp] theorem State.flagIf_x (f : Flag) (c : Bool) : (s.flagIf f c).x = s.x := rfl
@[simp] theorem State.flagIf_q (f : Flag) (c : Bool) : (s.flagIf f c).q = s.q := rfl
@[simp] theorem State.flagIf_ctx (f : Flag) (c : Bool) : (s.flagIf f c).ctx = s.ctx := rfl
@[simp] theorem State.flagIf_status (f : Flag) (c : Bool) :
    (s.flagIf f c).status = raiseIf f c s.status := rfl
@[simp] theorem State.flagIf_tickHz (f : Flag) (c : Bool) : (s.flagIf f c).tickHz = s.tickHz := rfl
@[simp] theorem State.flagIf_maxtt (f : Flag) (c : Bool) : (s.flagIf f c).maxtt = s.maxtt := rfl
@[simp] theorem State.flagIf_crcPoly (f : Flag) (c : Bool) :
    (s.flagIf f c).crcPoly = s.crcPoly := rfl
@[simp] theorem State.flagIf_spare (f : Flag) (c : Bool) : (s.flagIf f c).spare = s.spare := rfl
@[simp] theorem State.flagIf_splen (f : Flag) (c : Bool) : (s.flagIf f c).splen = s.splen := rfl
@[simp] theorem State.flagIf_kiter (f : Flag) (c : Bool) : (s.flagIf f c).kiter = s.kiter := rfl
@[simp] theorem State.flagIf_lastst (f : Flag) (c : Bool) : (s.flagIf f c).lastst = s.lastst := rfl
@[simp] theorem State.flagIf_qtn (f : Flag) (c : Bool) : (s.flagIf f c).qtn = s.qtn := rfl
@[simp] theorem State.flagIf_banks (f : Flag) (c : Bool) : (s.flagIf f c).banks = s.banks := rfl
@[simp] theorem State.flagIf_bm (f : Flag) (c : Bool) : (s.flagIf f c).bm = s.bm := rfl
@[simp] theorem State.flagIf_cm (f : Flag) (c : Bool) : (s.flagIf f c).cm = s.cm := rfl
@[simp] theorem State.flagIf_sm (f : Flag) (c : Bool) : (s.flagIf f c).sm = s.sm := rfl
@[simp] theorem State.flagIf_qt (f : Flag) (c : Bool) : (s.flagIf f c).qt = s.qt := rfl
@[simp] theorem State.flagIf_scat (f : Flag) (c : Bool) : (s.flagIf f c).scat = s.scat := rfl
@[simp] theorem State.flagIf_params (f : Flag) (c : Bool) : (s.flagIf f c).params = s.params := rfl
@[simp] theorem State.flagIf_resets (f : Flag) (c : Bool) : (s.flagIf f c).resets = s.resets := rfl
@[simp] theorem State.flagIf_pending (f : Flag) (c : Bool) :
    (s.flagIf f c).pending = s.pending := rfl
@[simp] theorem State.flagIf_responses (f : Flag) (c : Bool) :
    (s.flagIf f c).responses = s.responses := rfl

/-! `State.setKiter`. -/

@[simp] theorem State.setKiter_x (it : Nat) : (s.setKiter it).x = s.x := rfl
@[simp] theorem State.setKiter_q (it : Nat) : (s.setKiter it).q = s.q := rfl
@[simp] theorem State.setKiter_ctx (it : Nat) : (s.setKiter it).ctx = s.ctx := rfl
@[simp] theorem State.setKiter_status (it : Nat) : (s.setKiter it).status = s.status := rfl
@[simp] theorem State.setKiter_tickHz (it : Nat) : (s.setKiter it).tickHz = s.tickHz := rfl
@[simp] theorem State.setKiter_maxtt (it : Nat) : (s.setKiter it).maxtt = s.maxtt := rfl
@[simp] theorem State.setKiter_crcPoly (it : Nat) : (s.setKiter it).crcPoly = s.crcPoly := rfl
@[simp] theorem State.setKiter_spare (it : Nat) : (s.setKiter it).spare = s.spare := rfl
@[simp] theorem State.setKiter_splen (it : Nat) : (s.setKiter it).splen = s.splen := rfl
@[simp] theorem State.setKiter_kiter (it : Nat) : (s.setKiter it).kiter = BitVec.ofNat 8 it := rfl
@[simp] theorem State.setKiter_lastst (it : Nat) : (s.setKiter it).lastst = s.lastst := rfl
@[simp] theorem State.setKiter_qtn (it : Nat) : (s.setKiter it).qtn = s.qtn := rfl
@[simp] theorem State.setKiter_banks (it : Nat) : (s.setKiter it).banks = s.banks := rfl
@[simp] theorem State.setKiter_bm (it : Nat) : (s.setKiter it).bm = s.bm := rfl
@[simp] theorem State.setKiter_cm (it : Nat) : (s.setKiter it).cm = s.cm := rfl
@[simp] theorem State.setKiter_sm (it : Nat) : (s.setKiter it).sm = s.sm := rfl
@[simp] theorem State.setKiter_qt (it : Nat) : (s.setKiter it).qt = s.qt := rfl
@[simp] theorem State.setKiter_scat (it : Nat) : (s.setKiter it).scat = s.scat := rfl
@[simp] theorem State.setKiter_params (it : Nat) : (s.setKiter it).params = s.params := rfl
@[simp] theorem State.setKiter_resets (it : Nat) : (s.setKiter it).resets = s.resets := rfl
@[simp] theorem State.setKiter_pending (it : Nat) : (s.setKiter it).pending = s.pending := rfl
@[simp] theorem State.setKiter_responses (it : Nat) : (s.setKiter it).responses = s.responses := rfl

/-! `State.setLastst`. -/

@[simp] theorem State.setLastst_x (c : BitVec 8) : (s.setLastst c).x = s.x := rfl
@[simp] theorem State.setLastst_q (c : BitVec 8) : (s.setLastst c).q = s.q := rfl
@[simp] theorem State.setLastst_ctx (c : BitVec 8) : (s.setLastst c).ctx = s.ctx := rfl
@[simp] theorem State.setLastst_status (c : BitVec 8) : (s.setLastst c).status = s.status := rfl
@[simp] theorem State.setLastst_tickHz (c : BitVec 8) : (s.setLastst c).tickHz = s.tickHz := rfl
@[simp] theorem State.setLastst_maxtt (c : BitVec 8) : (s.setLastst c).maxtt = s.maxtt := rfl
@[simp] theorem State.setLastst_crcPoly (c : BitVec 8) : (s.setLastst c).crcPoly = s.crcPoly := rfl
@[simp] theorem State.setLastst_spare (c : BitVec 8) : (s.setLastst c).spare = s.spare := rfl
@[simp] theorem State.setLastst_splen (c : BitVec 8) : (s.setLastst c).splen = s.splen := rfl
@[simp] theorem State.setLastst_kiter (c : BitVec 8) : (s.setLastst c).kiter = s.kiter := rfl
@[simp] theorem State.setLastst_lastst (c : BitVec 8) : (s.setLastst c).lastst = c := rfl
@[simp] theorem State.setLastst_qtn (c : BitVec 8) : (s.setLastst c).qtn = s.qtn := rfl
@[simp] theorem State.setLastst_banks (c : BitVec 8) : (s.setLastst c).banks = s.banks := rfl
@[simp] theorem State.setLastst_bm (c : BitVec 8) : (s.setLastst c).bm = s.bm := rfl
@[simp] theorem State.setLastst_cm (c : BitVec 8) : (s.setLastst c).cm = s.cm := rfl
@[simp] theorem State.setLastst_sm (c : BitVec 8) : (s.setLastst c).sm = s.sm := rfl
@[simp] theorem State.setLastst_qt (c : BitVec 8) : (s.setLastst c).qt = s.qt := rfl
@[simp] theorem State.setLastst_scat (c : BitVec 8) : (s.setLastst c).scat = s.scat := rfl
@[simp] theorem State.setLastst_params (c : BitVec 8) : (s.setLastst c).params = s.params := rfl
@[simp] theorem State.setLastst_resets (c : BitVec 8) : (s.setLastst c).resets = s.resets := rfl
@[simp] theorem State.setLastst_pending (c : BitVec 8) : (s.setLastst c).pending = s.pending := rfl
@[simp] theorem State.setLastst_responses (c : BitVec 8) :
    (s.setLastst c).responses = s.responses := rfl

/-! `State.setCur`. -/

@[simp] theorem State.setCur_x (c : Context) : (s.setCur c).x = s.x := rfl
@[simp] theorem State.setCur_q (c : Context) : (s.setCur c).q = s.q := rfl
@[simp] theorem State.setCur_ctx (c : Context) : (s.setCur c).ctx = s.ctx := rfl
@[simp] theorem State.setCur_status (c : Context) : (s.setCur c).status = s.status := rfl
@[simp] theorem State.setCur_tickHz (c : Context) : (s.setCur c).tickHz = s.tickHz := rfl
@[simp] theorem State.setCur_maxtt (c : Context) : (s.setCur c).maxtt = s.maxtt := rfl
@[simp] theorem State.setCur_crcPoly (c : Context) : (s.setCur c).crcPoly = s.crcPoly := rfl
@[simp] theorem State.setCur_spare (c : Context) : (s.setCur c).spare = s.spare := rfl
@[simp] theorem State.setCur_splen (c : Context) : (s.setCur c).splen = s.splen := rfl
@[simp] theorem State.setCur_kiter (c : Context) : (s.setCur c).kiter = s.kiter := rfl
@[simp] theorem State.setCur_lastst (c : Context) : (s.setCur c).lastst = s.lastst := rfl
@[simp] theorem State.setCur_qtn (c : Context) : (s.setCur c).qtn = s.qtn := rfl
@[simp] theorem State.setCur_banks (c : Context) :
    (s.setCur c).banks = s.banks.put s.ctx.toNat c := rfl
@[simp] theorem State.setCur_bm (c : Context) : (s.setCur c).bm = s.bm := rfl
@[simp] theorem State.setCur_cm (c : Context) : (s.setCur c).cm = s.cm := rfl
@[simp] theorem State.setCur_sm (c : Context) : (s.setCur c).sm = s.sm := rfl
@[simp] theorem State.setCur_qt (c : Context) : (s.setCur c).qt = s.qt := rfl
@[simp] theorem State.setCur_scat (c : Context) : (s.setCur c).scat = s.scat := rfl
@[simp] theorem State.setCur_params (c : Context) : (s.setCur c).params = s.params := rfl
@[simp] theorem State.setCur_resets (c : Context) : (s.setCur c).resets = s.resets := rfl
@[simp] theorem State.setCur_pending (c : Context) : (s.setCur c).pending = s.pending := rfl
@[simp] theorem State.setCur_responses (c : Context) : (s.setCur c).responses = s.responses := rfl

/-! `State.writeBits`. -/

@[simp] theorem State.writeBits_x (a : Nat) (bs : List Bool) : (s.writeBits a bs).x = s.x := rfl
@[simp] theorem State.writeBits_q (a : Nat) (bs : List Bool) : (s.writeBits a bs).q = s.q := rfl
@[simp] theorem State.writeBits_ctx (a : Nat) (bs : List Bool) :
    (s.writeBits a bs).ctx = s.ctx := rfl
@[simp] theorem State.writeBits_status (a : Nat) (bs : List Bool) :
    (s.writeBits a bs).status = s.status := rfl
@[simp] theorem State.writeBits_tickHz (a : Nat) (bs : List Bool) :
    (s.writeBits a bs).tickHz = s.tickHz := rfl
@[simp] theorem State.writeBits_maxtt (a : Nat) (bs : List Bool) :
    (s.writeBits a bs).maxtt = s.maxtt := rfl
@[simp] theorem State.writeBits_crcPoly (a : Nat) (bs : List Bool) :
    (s.writeBits a bs).crcPoly = s.crcPoly := rfl
@[simp] theorem State.writeBits_spare (a : Nat) (bs : List Bool) :
    (s.writeBits a bs).spare = s.spare := rfl
@[simp] theorem State.writeBits_splen (a : Nat) (bs : List Bool) :
    (s.writeBits a bs).splen = s.splen := rfl
@[simp] theorem State.writeBits_kiter (a : Nat) (bs : List Bool) :
    (s.writeBits a bs).kiter = s.kiter := rfl
@[simp] theorem State.writeBits_lastst (a : Nat) (bs : List Bool) :
    (s.writeBits a bs).lastst = s.lastst := rfl
@[simp] theorem State.writeBits_qtn (a : Nat) (bs : List Bool) :
    (s.writeBits a bs).qtn = s.qtn := rfl
@[simp] theorem State.writeBits_banks (a : Nat) (bs : List Bool) :
    (s.writeBits a bs).banks = s.banks := rfl
@[simp] theorem State.writeBits_bm (a : Nat) (bs : List Bool) :
    (s.writeBits a bs).bm = s.bm.writeRange a bs := rfl
@[simp] theorem State.writeBits_cm (a : Nat) (bs : List Bool) : (s.writeBits a bs).cm = s.cm := rfl
@[simp] theorem State.writeBits_sm (a : Nat) (bs : List Bool) : (s.writeBits a bs).sm = s.sm := rfl
@[simp] theorem State.writeBits_qt (a : Nat) (bs : List Bool) : (s.writeBits a bs).qt = s.qt := rfl
@[simp] theorem State.writeBits_scat (a : Nat) (bs : List Bool) :
    (s.writeBits a bs).scat = s.scat := rfl
@[simp] theorem State.writeBits_params (a : Nat) (bs : List Bool) :
    (s.writeBits a bs).params = s.params := rfl
@[simp] theorem State.writeBits_resets (a : Nat) (bs : List Bool) :
    (s.writeBits a bs).resets = s.resets := rfl
@[simp] theorem State.writeBits_pending (a : Nat) (bs : List Bool) :
    (s.writeBits a bs).pending = s.pending := rfl
@[simp] theorem State.writeBits_responses (a : Nat) (bs : List Bool) :
    (s.writeBits a bs).responses = s.responses := rfl

/-! `State.writeSamples`. -/

@[simp] theorem State.writeSamples_x (a : Nat) (vs : List Sample) :
    (s.writeSamples a vs).x = s.x := rfl
@[simp] theorem State.writeSamples_q (a : Nat) (vs : List Sample) :
    (s.writeSamples a vs).q = s.q := rfl
@[simp] theorem State.writeSamples_ctx (a : Nat) (vs : List Sample) :
    (s.writeSamples a vs).ctx = s.ctx := rfl
@[simp] theorem State.writeSamples_status (a : Nat) (vs : List Sample) :
    (s.writeSamples a vs).status = s.status := rfl
@[simp] theorem State.writeSamples_tickHz (a : Nat) (vs : List Sample) :
    (s.writeSamples a vs).tickHz = s.tickHz := rfl
@[simp] theorem State.writeSamples_maxtt (a : Nat) (vs : List Sample) :
    (s.writeSamples a vs).maxtt = s.maxtt := rfl
@[simp] theorem State.writeSamples_crcPoly (a : Nat) (vs : List Sample) :
    (s.writeSamples a vs).crcPoly = s.crcPoly := rfl
@[simp] theorem State.writeSamples_spare (a : Nat) (vs : List Sample) :
    (s.writeSamples a vs).spare = s.spare := rfl
@[simp] theorem State.writeSamples_splen (a : Nat) (vs : List Sample) :
    (s.writeSamples a vs).splen = s.splen := rfl
@[simp] theorem State.writeSamples_kiter (a : Nat) (vs : List Sample) :
    (s.writeSamples a vs).kiter = s.kiter := rfl
@[simp] theorem State.writeSamples_lastst (a : Nat) (vs : List Sample) :
    (s.writeSamples a vs).lastst = s.lastst := rfl
@[simp] theorem State.writeSamples_qtn (a : Nat) (vs : List Sample) :
    (s.writeSamples a vs).qtn = s.qtn := rfl
@[simp] theorem State.writeSamples_banks (a : Nat) (vs : List Sample) :
    (s.writeSamples a vs).banks = s.banks := rfl
@[simp] theorem State.writeSamples_bm (a : Nat) (vs : List Sample) :
    (s.writeSamples a vs).bm = s.bm := rfl
@[simp] theorem State.writeSamples_cm (a : Nat) (vs : List Sample) :
    (s.writeSamples a vs).cm = s.cm := rfl
@[simp] theorem State.writeSamples_sm (a : Nat) (vs : List Sample) :
    (s.writeSamples a vs).sm = s.sm.writeRange a vs := rfl
@[simp] theorem State.writeSamples_qt (a : Nat) (vs : List Sample) :
    (s.writeSamples a vs).qt = s.qt := rfl
@[simp] theorem State.writeSamples_scat (a : Nat) (vs : List Sample) :
    (s.writeSamples a vs).scat = s.scat := rfl
@[simp] theorem State.writeSamples_params (a : Nat) (vs : List Sample) :
    (s.writeSamples a vs).params = s.params := rfl
@[simp] theorem State.writeSamples_resets (a : Nat) (vs : List Sample) :
    (s.writeSamples a vs).resets = s.resets := rfl
@[simp] theorem State.writeSamples_pending (a : Nat) (vs : List Sample) :
    (s.writeSamples a vs).pending = s.pending := rfl
@[simp] theorem State.writeSamples_responses (a : Nat) (vs : List Sample) :
    (s.writeSamples a vs).responses = s.responses := rfl

/-! `State.answer`. -/

@[simp] theorem State.answer_x (r : Response) : (s.answer r).x = s.x := rfl
@[simp] theorem State.answer_q (r : Response) : (s.answer r).q = s.q := rfl
@[simp] theorem State.answer_ctx (r : Response) : (s.answer r).ctx = s.ctx := rfl
@[simp] theorem State.answer_status (r : Response) : (s.answer r).status = s.status := rfl
@[simp] theorem State.answer_tickHz (r : Response) : (s.answer r).tickHz = s.tickHz := rfl
@[simp] theorem State.answer_maxtt (r : Response) : (s.answer r).maxtt = s.maxtt := rfl
@[simp] theorem State.answer_crcPoly (r : Response) : (s.answer r).crcPoly = s.crcPoly := rfl
@[simp] theorem State.answer_spare (r : Response) : (s.answer r).spare = s.spare := rfl
@[simp] theorem State.answer_splen (r : Response) : (s.answer r).splen = s.splen := rfl
@[simp] theorem State.answer_kiter (r : Response) : (s.answer r).kiter = s.kiter := rfl
@[simp] theorem State.answer_lastst (r : Response) : (s.answer r).lastst = s.lastst := rfl
@[simp] theorem State.answer_qtn (r : Response) : (s.answer r).qtn = s.qtn := rfl
@[simp] theorem State.answer_banks (r : Response) : (s.answer r).banks = s.banks := rfl
@[simp] theorem State.answer_bm (r : Response) : (s.answer r).bm = s.bm := rfl
@[simp] theorem State.answer_cm (r : Response) : (s.answer r).cm = s.cm := rfl
@[simp] theorem State.answer_sm (r : Response) : (s.answer r).sm = s.sm := rfl
@[simp] theorem State.answer_qt (r : Response) : (s.answer r).qt = s.qt := rfl
@[simp] theorem State.answer_scat (r : Response) : (s.answer r).scat = s.scat := rfl
@[simp] theorem State.answer_params (r : Response) : (s.answer r).params = s.params := rfl
@[simp] theorem State.answer_resets (r : Response) : (s.answer r).resets = s.resets := rfl
@[simp] theorem State.answer_pending (r : Response) : (s.answer r).pending = s.pending := rfl
@[simp] theorem State.answer_responses (r : Response) :
    (s.answer r).responses = s.responses ++ [r] := rfl

end Sys2Proof.Machine
end

