-- ==== Sys2Proof/Laws/Memory.lean ====
section
/-! SUPPORT. The laws of the memory spaces: what a read of one element gives after each write, and that
every write keeps the canonical form. -/

namespace Sys2Proof.Machine

variable {α : Type}

@[simp] theorem Memory.get?_nil (b : Nat) : Memory.get? ([] : Memory α) b = none := rfl

theorem Memory.get?_cons (c : Nat × α) (m : Memory α) (b : Nat) :
    Memory.get? (c :: m) b = if c.1 = b then some c.2 else Memory.get? m b := by
  by_cases h : c.1 = b <;> simp [Memory.get?, h]

theorem Memory.get?_append (m₁ m₂ : Memory α) (b : Nat) :
    Memory.get? (m₁ ++ m₂) b = (Memory.get? m₁ b).or (Memory.get? m₂ b) := by
  induction m₁ with
  | nil => simp
  | cons c m ih => by_cases h : c.1 = b <;> simp [Memory.get?_cons, h, ih]

theorem Memory.get?_filter (m : Memory α) (p : Nat → Bool) (b : Nat) :
    Memory.get? (m.filter fun c => p c.1) b = if p b then Memory.get? m b else none := by
  induction m with
  | nil => simp
  | cons c m ih =>
    by_cases h : c.1 = b
    · subst h; by_cases hp : p c.1 <;> simp [Memory.get?_cons, hp, ih]
    · by_cases hp : p c.1 <;> simp [Memory.get?_cons, hp, h, ih]

theorem Memory.get?_block (vs : List α) (a k b : Nat) :
    Memory.get? ((vs.zipIdx k).map fun p => (a + p.2, p.1)) b =
      if a + k ≤ b then vs[b - (a + k)]? else none := by
  induction vs generalizing k with
  | nil => simp
  | cons v vs ih =>
    rw [List.zipIdx_cons, List.map_cons, Memory.get?_cons, ih]
    rcases Nat.lt_trichotomy b (a + k) with h | h | h
    · simp [show ¬ a + k = b by omega, show ¬ a + k ≤ b by omega, show ¬ a + (k + 1) ≤ b by omega]
    · subst h; simp
    · obtain ⟨d, rfl⟩ : ∃ d, b = a + k + (d + 1) := ⟨b - (a + k) - 1, by omega⟩
      have h₁ : a + k + (d + 1) - (a + (k + 1)) = d := by omega
      have h₂ : a + k + (d + 1) - (a + k) = d + 1 := by omega
      simp [show a + (k + 1) ≤ a + k + (d + 1) by omega, h₁, h₂]

/-- What a write of a run can do to a read: inside the run the value written, elsewhere the element as
it was. -/
theorem Memory.get?_writeRange (m : Memory α) (a : Nat) (vs : List α) (b : Nat) :
    (m.writeRange a vs).get? b =
      if a ≤ b ∧ b < a + vs.length then vs[b - a]? else m.get? b := by
  rw [Memory.writeRange, Memory.get?_append, Memory.get?_append,
    Memory.get?_filter m (fun k => decide (k < a)),
    Memory.get?_filter m (fun k => decide (a + vs.length ≤ k))]
  have h := Memory.get?_block vs a 0 b
  simp only [Nat.add_zero] at h
  rw [h]
  by_cases h₁ : b < a
  · simp [h₁, show ¬ a ≤ b by omega, show ¬ a + vs.length ≤ b by omega]
  · by_cases h₂ : b < a + vs.length
    · have h₃ : b - a < vs.length := by omega
      simp [h₁, h₂, show a ≤ b by omega, h₃]
    · have h₃ : ¬ b - a < vs.length := by omega
      simp [h₁, h₂, show a ≤ b by omega, show a + vs.length ≤ b by omega, h₃]

@[simp] theorem Memory.get?_put (m : Memory α) (a : Nat) (v : α) (b : Nat) :
    (m.put a v).get? b = if b = a then some v else m.get? b := by
  rw [Memory.put, Memory.get?_writeRange]
  by_cases h : b = a
  · simp [h]
  · rw [if_neg (by simp; omega), if_neg h]

/-! The canonical form. -/

theorem Memory.wf_nil (size : Nat) : Memory.wf size ([] : Memory α) := by simp [Memory.wf]

theorem Memory.wf_writeRange {size : Nat} {m : Memory α} (h : Memory.wf size m) (a : Nat)
    (vs : List α) (ha : a + vs.length ≤ size) : Memory.wf size (m.writeRange a vs) := by
  have hblock : ∀ c ∈ vs.zipIdx.map (fun p => (a + p.2, p.1)), a ≤ c.1 ∧ c.1 < a + vs.length := by
    intro c hc
    obtain ⟨p, hp, rfl⟩ := List.mem_map.1 hc
    have := List.mem_zipIdx hp
    simp; omega
  have hsorted : (vs.zipIdx.map fun p => (a + p.2, p.1)).Pairwise fun c d => c.1 < d.1 := by
    rw [List.pairwise_map]
    have : (vs.zipIdx.map Prod.snd).Pairwise (· < ·) := by
      rw [List.zipIdx_map_snd]; exact List.pairwise_lt_range'
    rw [List.pairwise_map] at this
    exact this.imp (by intro p q h; simpa using h)
  constructor
  · rw [Memory.writeRange, List.pairwise_append, List.pairwise_append]
    refine ⟨⟨h.1.filter _, hsorted, ?_⟩, h.1.filter _, ?_⟩
    · intro c hc d hd
      have := hblock d hd
      have := (List.mem_filter.1 hc).2
      simp at this; omega
    · intro c hc d hd
      have hd' := (List.mem_filter.1 hd).2
      simp at hd'
      rcases List.mem_append.1 hc with hc | hc
      · have := (List.mem_filter.1 hc).2
        simp at this; omega
      · have := hblock c hc; omega
  · intro c hc
    rw [Memory.writeRange] at hc
    rcases List.mem_append.1 hc with hc | hc
    · rcases List.mem_append.1 hc with hc | hc
      · exact h.2 c (List.mem_filter.1 hc).1
      · have := hblock c hc; omega
    · exact h.2 c (List.mem_filter.1 hc).1

theorem Memory.wf_put {size : Nat} {m : Memory α} (h : Memory.wf size m) (a : Nat) (v : α)
    (ha : a < size) : Memory.wf size (m.put a v) :=
  Memory.wf_writeRange h a [v] (by simpa using ha)

/-- A cell after a write is one of the run or one of those before. -/
theorem Memory.mem_writeRange {m : Memory α} {a : Nat} {vs : List α} {c : Nat × α}
    (hc : c ∈ m.writeRange a vs) :
    c ∈ m ∨ (a ≤ c.1 ∧ c.1 < a + vs.length ∧ c.2 ∈ vs) := by
  rw [Memory.writeRange] at hc
  rcases List.mem_append.1 hc with hc | hc
  · rcases List.mem_append.1 hc with hc | hc
    · exact .inl (List.mem_filter.1 hc).1
    · obtain ⟨p, hp, rfl⟩ := List.mem_map.1 hc
      have h₁ := List.mem_zipIdx hp
      refine .inr ⟨by simp, by simp; omega, ?_⟩
      have : p.1 ∈ vs.zipIdx.map Prod.fst := List.mem_map_of_mem hp
      rwa [List.zipIdx_map_fst] at this
  · exact .inl (List.mem_filter.1 hc).1

theorem Memory.mem_put {m : Memory α} {a : Nat} {v : α} {c : Nat × α} (hc : c ∈ m.put a v) :
    c ∈ m ∨ c = (a, v) := by
  rcases Memory.mem_writeRange hc with h | ⟨h₁, h₂, h₃⟩
  · exact .inl h
  · refine .inr ?_
    simp at h₂ h₃
    ext
    · omega
    · exact h₃

/-- Replacing a context that is there leaves the contexts in place. -/
theorem Memory.keys_put_range {m : Memory α} {n k : Nat} (v : α)
    (hm : m.map Prod.fst = List.range n) (hk : k < n) :
    (m.put k v).map Prod.fst = List.range n := by
  have hlt : (m.filter fun c => decide (c.1 < k)).map Prod.fst = List.range k := by
    have := List.filter_map (f := Prod.fst) (p := fun i => decide (i < k)) (l := m)
    rw [show ((fun i => decide (i < k)) ∘ Prod.fst : Nat × α → Bool) =
      fun c => decide (c.1 < k) from rfl] at this
    rw [← this, hm]
    apply List.ext_getElem?
    intro i
    rw [show n = k + (n - k) by omega, List.range_add, List.filter_append]
    simp [List.filter_eq_self.2, List.filter_eq_nil_iff.2]
  have hge : (m.filter fun c => decide (k + 1 ≤ c.1)).map Prod.fst =
      (List.range (n - (k + 1))).map (k + 1 + ·) := by
    have := List.filter_map (f := Prod.fst) (p := fun i => decide (k + 1 ≤ i)) (l := m)
    rw [show ((fun i => decide (k + 1 ≤ i)) ∘ Prod.fst : Nat × α → Bool) =
      fun c => decide (k + 1 ≤ c.1) from rfl] at this
    rw [← this, hm]
    conv_lhs => rw [show n = (k + 1) + (n - (k + 1)) by omega, List.range_add, List.filter_append]
    rw [List.filter_eq_nil_iff.2 (by simp), List.nil_append, List.filter_eq_self.2]
    simp
    omega
  rw [Memory.put, Memory.writeRange]
  simp only [List.length_singleton, List.map_append, hlt, hge]
  conv_rhs => rw [show n = (k + 1) + (n - (k + 1)) by omega, List.range_add, List.range_succ]
  simp

/-! Reads of the state. -/

/-- What `writeBits` does to one bit of BM. -/
theorem State.bit_writeBits (s : State) (a : Nat) (bs : List Bool) (b : Nat) :
    (s.writeBits a bs).bit b =
      if h : a ≤ b ∧ b < a + bs.length then bs[b - a]'(by omega) else s.bit b := by
  simp only [State.bit, State.writeBits_bm, State.writeBits_resets, Memory.get?_writeRange]
  by_cases h : a ≤ b ∧ b < a + bs.length
  · have h' : b - a < bs.length := by omega
    simp [h, h']
  · simp only [if_neg h, dif_neg h]

/-- What `writeSamples` does to one sample of SM. -/
theorem State.sample_writeSamples (s : State) (a : Nat) (vs : List Sample) (b : Nat) :
    (s.writeSamples a vs).sample b =
      if h : a ≤ b ∧ b < a + vs.length then vs[b - a]'(by omega) else s.sample b := by
  simp only [State.sample, State.writeSamples_sm, State.writeSamples_resets, Memory.get?_writeRange]
  by_cases h : a ≤ b ∧ b < a + vs.length
  · have h' : b - a < vs.length := by omega
    simp [h, h']
  · simp only [if_neg h, dif_neg h]

/-- What replacing the current context does to each context. -/
theorem State.bank_setCur (s : State) (c : Context) (k : Nat) :
    (s.setCur c).bank k = if k = s.ctx.toNat then c else s.bank k := by
  simp only [State.bank, State.setCur_banks, Memory.get?_put]
  split <;> simp

@[simp] theorem State.cur_setCur (s : State) (c : Context) : (s.setCur c).cur = c := by
  simp [State.cur, State.bank_setCur]

/-- What `x[r] <- v` does to each operand register. -/
theorem State.xreg_setX (s : State) (r : XReg) (v : Int) (r' : XReg) :
    (s.setX r v).xreg r' = if r' = r then BitVec.ofInt 64 v else s.xreg r' := by
  simp only [State.xreg, State.setX_x, Vector.getElem_set, BitVec.toNat_inj, eq_comm (a := r)]

/-- What `q[r] <- v` does to each fixed-point register. -/
theorem State.qval_setQ (s : State) (r : QReg) (v : Int) (r' : QReg) :
    (s.setQ r v).qval r' = if r' = r then wrapS 128 v else s.qval r' := by
  simp only [State.qval, State.setQ_q, Vector.getElem_set, BitVec.toNat_inj, eq_comm (a := r)]
  split
  · rw [BitVec.toInt_ofInt]; rfl
  · rfl

end Sys2Proof.Machine
end

