-- ==== Sys2Proof/Laws/FixedPoint.lean ====
section
/-! SUPPORT. What a computation of the fixed-point primitives can do: it yields a value that does not
depend on `STATUS`, and adds flags from a given list to it. -/

namespace Sys2Proof.Machine

/-- Adds the flags of a list to a value of `STATUS`. -/
def addFlags (d : List Flag) (st : BitVec 8) : BitVec 8 := d.foldl (fun acc f => acc ||| f.mask) st

theorem addFlags_append (d e : List Flag) (st : BitVec 8) :
    addFlags (d ++ e) st = addFlags e (addFlags d st) := List.foldl_append

theorem addFlags_toNat_lt (d : List Flag) (st : BitVec 8) (h : st.toNat < 64) :
    (addFlags d st).toNat < 64 := by
  induction d generalizing st with
  | nil => exact h
  | cons f d ih =>
    refine ih _ ?_
    rw [BitVec.toNat_or]
    exact Nat.or_lt_two_pow (n := 6) h (by cases f <;> decide)

/-- The computation yields the value `v`, and adds flags of `fs`, whatever `STATUS` holds. -/
def Yields {α : Type} (fs : List Flag) (m : FxM α) (v : α) : Prop :=
  ∃ d, (∀ f ∈ d, f ∈ fs) ∧ ∀ st, m.run st = (v, addFlags d st)

/-- The computation yields some value and adds flags of `fs`, whatever `STATUS` holds. -/
def Uniform {α : Type} (fs : List Flag) (m : FxM α) : Prop := ∃ v, Yields fs m v

theorem Yields.uniform {α : Type} {fs : List Flag} {m : FxM α} {v : α} (h : Yields fs m v) :
    Uniform fs m := ⟨v, h⟩

theorem Yields.mono {α : Type} {fs gs : List Flag} {m : FxM α} {v : α} (h : Yields fs m v)
    (hs : ∀ f ∈ fs, f ∈ gs) : Yields gs m v := by
  obtain ⟨d, hd, hr⟩ := h
  exact ⟨d, fun f hf => hs f (hd f hf), hr⟩

theorem Uniform.mono {α : Type} {fs gs : List Flag} {m : FxM α} (h : Uniform fs m)
    (hs : ∀ f ∈ fs, f ∈ gs) : Uniform gs m := by
  obtain ⟨v, hv⟩ := h
  exact ⟨v, hv.mono hs⟩

theorem yields_pure {α : Type} (fs : List Flag) (v : α) : Yields fs (pure v : FxM α) v :=
  ⟨[], by simp, fun _ => rfl⟩

theorem Yields.bind {α β : Type} {fs : List Flag} {m : FxM α} {v : α} {k : α → FxM β} {w : β}
    (h : Yields fs m v) (hk : Yields fs (k v) w) : Yields fs (m >>= k) w := by
  obtain ⟨d, hd, hr⟩ := h
  obtain ⟨e, he, hs⟩ := hk
  refine ⟨d ++ e, ?_, fun st => ?_⟩
  · intro f hf
    rcases List.mem_append.1 hf with hf | hf
    exacts [hd f hf, he f hf]
  · rw [StateT.run_bind, hr]
    exact (hs _).trans (by rw [addFlags_append])

theorem Uniform.bind {α β : Type} {fs : List Flag} {m : FxM α} {k : α → FxM β}
    (h : Uniform fs m) (hk : ∀ v, Uniform fs (k v)) : Uniform fs (m >>= k) := by
  obtain ⟨v, hv⟩ := h
  obtain ⟨w, hw⟩ := hk v
  exact ⟨w, hv.bind hw⟩

/-- Reading a uniform computation at any two values of `STATUS` gives the same value. -/
theorem Uniform.run_eq {α : Type} {fs : List Flag} {m : FxM α} (h : Uniform fs m) :
    ∃ d, (∀ f ∈ d, f ∈ fs) ∧ ∀ st st', m.run st = ((m.run st').1, addFlags d st) := by
  obtain ⟨v, d, hd, hr⟩ := h
  exact ⟨d, hd, fun st st' => by rw [hr, hr]⟩

theorem yields_fxFlag {fs : List Flag} (f : Flag) (c : Bool) (h : c = true → f ∈ fs) :
    Yields fs (fxFlag f c) () := by
  cases c with
  | false => exact ⟨[], by simp, fun _ => rfl⟩
  | true => exact ⟨[f], by simpa using h rfl, fun _ => rfl⟩

/-! The primitives. -/

theorem yields_fxReduce (v : Int) : Yields [.qovf] (fxReduce v) (wrapS 128 v) :=
  (yields_fxFlag .qovf _ (by simp)).bind (yields_pure _ _)

/-- A result in range is kept as it is and sets no flag. -/
theorem fxReduce_of_fits (v : Int) (h : -(2 ^ 127) ≤ v) (h' : v < 2 ^ 127) :
    fxReduce v = pure v := by
  have hf : fitsS 128 v = true := by
    simp only [fitsS, Bool.and_eq_true, decide_eq_true_eq]; omega
  have hw : wrapS 128 v = v := by
    simp only [wrapS]; exact Int.bmod_eq_of_le (by omega) (by omega)
  funext st
  simp only [fxReduce, hf, hw]
  rfl

theorem yields_fxAdd (a b : Int) : Yields [.qovf] (fxAdd a b) (wrapS 128 (a + b)) :=
  yields_fxReduce _

theorem yields_fxSub (a b : Int) : Yields [.qovf] (fxSub a b) (wrapS 128 (a - b)) :=
  yields_fxReduce _

theorem yields_fxMul (a b : Int) : Yields [.qovf] (fxMul a b) (mulValue a b) :=
  yields_fxReduce _

theorem yields_fxDiv (a b : Int) :
    Yields [.qovf, .divz] (fxDiv a b)
      (if b = 0 then 0 else wrapS 128 (fdiv (a * Config.one) b)) := by
  unfold fxDiv
  split
  · exact (yields_fxFlag .divz true (by simp)).bind (yields_pure _ _)
  · exact (yields_fxReduce _).mono (by simp)

theorem yields_fxSqrt (a : Int) :
    Yields [.negsqrt] (fxSqrt a) (if a < 0 then 0 else isqrt (a * Config.one).toNat) := by
  unfold fxSqrt
  split
  · exact (yields_fxFlag .negsqrt true (by simp)).bind (yields_pure _ _)
  · exact yields_pure _ _

theorem yields_fxCos (a : Int) :
    Yields [.qovf] (fxCos a) (fxSin (wrapS 128 (a + Config.halfPiQ))) :=
  (yields_fxAdd a _).bind (yields_pure _ _)

/-! The compound computations, with the flags each can set. -/

section
variable {fs : List Flag}

theorem uniform_fxAdd (hq : Flag.qovf ∈ fs) (a b : Int) : Uniform fs (fxAdd a b) :=
  ((yields_fxAdd a b).mono (by simpa using hq)).uniform

theorem uniform_fxSub (hq : Flag.qovf ∈ fs) (a b : Int) : Uniform fs (fxSub a b) :=
  ((yields_fxSub a b).mono (by simpa using hq)).uniform

theorem uniform_fxMul (hq : Flag.qovf ∈ fs) (a b : Int) : Uniform fs (fxMul a b) :=
  ((yields_fxMul a b).mono (by simpa using hq)).uniform

theorem uniform_fxReduce (hq : Flag.qovf ∈ fs) (a : Int) : Uniform fs (fxReduce a) :=
  ((yields_fxReduce a).mono (by simpa using hq)).uniform

theorem uniform_fxCos (hq : Flag.qovf ∈ fs) (a : Int) : Uniform fs (fxCos a) :=
  ((yields_fxCos a).mono (by simpa using hq)).uniform

theorem uniform_fxDiv (hq : Flag.qovf ∈ fs) (hd : Flag.divz ∈ fs) (a b : Int) :
    Uniform fs (fxDiv a b) :=
  ((yields_fxDiv a b).mono (by simp [hq, hd])).uniform

theorem uniform_fxSqrt (hn : Flag.negsqrt ∈ fs) (a : Int) : Uniform fs (fxSqrt a) :=
  ((yields_fxSqrt a).mono (by simpa using hn)).uniform

theorem uniform_keplerLoop (hq : Flag.qovf ∈ fs) (hd : Flag.divz ∈ fs) (e m : Int) (fuel it : Nat)
    (ea : Int) : Uniform fs (keplerLoop e m fuel it ea) := by
  induction fuel generalizing it ea with
  | zero => exact (yields_pure _ _).uniform
  | succ fuel ih =>
    unfold keplerLoop
    refine (uniform_fxCos hq _).bind fun c => (uniform_fxMul hq _ _).bind fun _ =>
      (uniform_fxSub hq _ _).bind fun _ => (uniform_fxSub hq _ _).bind fun _ =>
      (uniform_fxMul hq _ _).bind fun _ => (uniform_fxSub hq _ _).bind fun _ =>
      (uniform_fxDiv hq hd _ _).bind fun _ => (uniform_fxSub hq _ _).bind fun _ => ?_
    split
    · exact (yields_pure _ _).uniform
    · exact ih _ _

theorem uniform_kepler (hq : Flag.qovf ∈ fs) (hd : Flag.divz ∈ fs) (hc : Flag.noconv ∈ fs)
    (m e : Int) : Uniform fs (kepler m e) := by
  unfold kepler
  refine (uniform_keplerLoop hq hd _ _ _ _ _).bind fun r =>
    ((yields_fxFlag .noconv _ fun _ => hc).uniform).bind fun _ => (yields_pure _ _).uniform

theorem uniform_propTime (hq : Flag.qovf ∈ fs) (hd : Flag.divz ∈ fs) (t toa : Int) (hz : Nat) :
    Uniform fs (propTime t toa hz) := by
  unfold propTime
  split
  · exact ((yields_fxFlag .divz true fun _ => hd).uniform).bind fun _ => (yields_pure _ _).uniform
  · exact (uniform_fxReduce hq _).bind fun _ => (yields_pure _ _).uniform

theorem uniform_propMean (hq : Flag.qovf ∈ fs) (hd : Flag.divz ∈ fs) (hc : Flag.noconv ∈ fs)
    (el : Elements) (tk : Int) : Uniform fs (propMean el tk) := by
  unfold propMean
  repeat' first
    | with_reducible exact (yields_pure _ _).uniform
    | with_reducible exact uniform_fxMul hq _ _
    | with_reducible exact uniform_fxSub hq _ _
    | with_reducible exact uniform_fxAdd hq _ _
    | with_reducible exact uniform_fxCos hq _
    | with_reducible exact uniform_fxDiv hq hd _ _
    | with_reducible exact uniform_kepler hq hd hc _ _
    | refine Uniform.bind ?_ fun _ => ?_

theorem uniform_propPlane (hq : Flag.qovf ∈ fs) (hd : Flag.divz ∈ fs) (hn : Flag.negsqrt ∈ fs)
    (el : Elements) (mm : MeanMotion) : Uniform fs (propPlane el mm) := by
  unfold propPlane
  repeat' first
    | with_reducible exact (yields_pure _ _).uniform
    | with_reducible exact uniform_fxMul hq _ _
    | with_reducible exact uniform_fxSub hq _ _
    | with_reducible exact uniform_fxAdd hq _ _
    | with_reducible exact uniform_fxCos hq _
    | with_reducible exact uniform_fxDiv hq hd _ _
    | with_reducible exact uniform_fxSqrt hn _
    | refine Uniform.bind ?_ fun _ => ?_

theorem uniform_propRotate (hq : Flag.qovf ∈ fs) (el : Elements) (tk toasow : Int) (p : InPlane) :
    Uniform fs (propRotate el tk toasow p) := by
  unfold propRotate
  repeat' first
    | with_reducible exact (yields_pure _ _).uniform
    | with_reducible exact uniform_fxMul hq _ _
    | with_reducible exact uniform_fxSub hq _ _
    | with_reducible exact uniform_fxAdd hq _ _
    | with_reducible exact uniform_fxCos hq _
    | refine Uniform.bind ?_ fun _ => ?_

theorem uniform_propVelocity (hq : Flag.qovf ∈ fs) (hd : Flag.divz ∈ fs) (el : Elements)
    (mm : MeanMotion) (p : InPlane) (r : Rotated) : Uniform fs (propVelocity el mm p r) := by
  unfold propVelocity
  repeat' first
    | with_reducible exact (yields_pure _ _).uniform
    | with_reducible exact uniform_fxMul hq _ _
    | with_reducible exact uniform_fxSub hq _ _
    | with_reducible exact uniform_fxAdd hq _ _
    | with_reducible exact uniform_fxCos hq _
    | with_reducible exact uniform_fxDiv hq hd _ _
    | refine Uniform.bind ?_ fun _ => ?_

theorem uniform_propagate (hq : Flag.qovf ∈ fs) (hd : Flag.divz ∈ fs) (hc : Flag.noconv ∈ fs)
    (hn : Flag.negsqrt ∈ fs) (el : Elements) (t toa : Int) (hz : Nat) :
    Uniform fs (propagate el t toa hz) := by
  unfold propagate
  exact (uniform_propTime hq hd _ _ _).bind fun _ => (uniform_propMean hq hd hc _ _).bind fun _ =>
    (uniform_propPlane hq hd hn _ _).bind fun _ => (uniform_propRotate hq _ _ _ _).bind fun _ =>
    (uniform_propVelocity hq hd _ _ _ _).bind fun _ => (yields_pure _ _).uniform

theorem uniform_relativisticDelay (hq : Flag.qovf ∈ fs) (hd : Flag.divz ∈ fs)
    (sqrtA ecc ea sqrtGm clight : Int) :
    Uniform fs (relativisticDelay sqrtA ecc ea sqrtGm clight) := by
  unfold relativisticDelay
  exact (uniform_fxDiv hq hd _ _).bind fun _ => (uniform_fxAdd hq _ _).bind fun _ =>
    (uniform_fxMul hq _ _).bind fun _ => (uniform_fxMul hq _ _).bind fun _ => uniform_fxMul hq _ _

end

/-! Ranges of values. -/

/-- The wrapped angle lies in (−π, π] (40_orbit.md R146). -/
theorem wrapPi_range (a : Int) : -Config.piQ + 1 ≤ wrapPi a ∧ wrapPi a ≤ Config.piQ := by
  have h₁ := Int.emod_nonneg (a + Config.piQ - 1) (b := Config.twoPiQ) (by decide)
  have h₂ := Int.emod_lt_of_pos (a + Config.piQ - 1) (b := Config.twoPiQ) (by decide)
  unfold wrapPi
  have h₃ : Config.twoPiQ = 2 * Config.piQ := by decide
  omega

theorem wrapS_of_fits (v : Int) (h : -(2 ^ 127) ≤ v) (h' : v < 2 ^ 127) : wrapS 128 v = v := by
  simp only [wrapS]; exact Int.bmod_eq_of_le (by omega) (by omega)

@[simp] theorem wrapS_wrapS (v : Int) : wrapS 128 (wrapS 128 v) = wrapS 128 v := by
  simp [wrapS]

/-! Properties of every value a computation can yield. -/

/-- Every value the computation can yield satisfies `P`. -/
def Ensures {α : Type} (m : FxM α) (P : α → Prop) : Prop := ∀ st, P (m.run st).1

theorem ensures_pure {α : Type} {P : α → Prop} {v : α} (h : P v) : Ensures (pure v : FxM α) P :=
  fun _ => h

theorem ensures_true {α : Type} (m : FxM α) : Ensures m fun _ => True := fun _ => trivial

theorem Ensures.bind {α β : Type} {P : α → Prop} {Q : β → Prop} {m : FxM α} {k : α → FxM β}
    (h : Ensures m P) (hk : ∀ v, P v → Ensures (k v) Q) : Ensures (m >>= k) Q := by
  intro st
  rw [StateT.run_bind]
  exact hk _ (h st) _

theorem Yields.ensures {α : Type} {fs : List Flag} {m : FxM α} {v : α} (h : Yields fs m v) :
    Ensures m fun w => w = v := by
  obtain ⟨d, _, hr⟩ := h
  intro st; rw [hr]

/-- A value of a 128-bit register. -/
def Wrapped (v : Int) : Prop := wrapS 128 v = v

theorem ensures_wrapped {fs : List Flag} {m : FxM Int} {v : Int} (h : Yields fs m (wrapS 128 v)) :
    Ensures m Wrapped := by
  intro st; rw [h.ensures st]; exact wrapS_wrapS v

theorem ensures_fxReduce (v : Int) : Ensures (fxReduce v) Wrapped :=
  ensures_wrapped (yields_fxReduce v)

theorem wrapped_wrapPi (a : Int) : Wrapped (wrapPi a) := by
  have h := wrapPi_range a
  have : Config.piQ = 0x3243F6A8885A308D3 := rfl
  exact wrapS_of_fits _ (by omega) (by omega)

/-- The loop makes at least one iteration when it has fuel, and no more than its fuel (R150). -/
theorem ensures_keplerLoop (e m : Int) (fuel it : Nat) (ea : Int) :
    Ensures (keplerLoop e m fuel it ea) fun r =>
      it ≤ r.it ∧ r.it ≤ it + fuel ∧ (0 < fuel → it + 1 ≤ r.it) := by
  induction fuel generalizing it ea with
  | zero => exact ensures_pure (by simp)
  | succ fuel ih =>
    unfold keplerLoop
    refine (ensures_true _).bind fun _ _ => (ensures_true _).bind fun _ _ =>
      (ensures_true _).bind fun _ _ => (ensures_true _).bind fun _ _ =>
      (ensures_true _).bind fun _ _ => (ensures_true _).bind fun _ _ =>
      (ensures_true _).bind fun _ _ => (ensures_true _).bind fun _ _ => ?_
    split
    · exact ensures_pure (by simp)
    · intro st
      obtain ⟨h₁, h₂, -⟩ := ih (it + 1) _ st
      exact ⟨by omega, by omega, fun _ => h₁⟩

/-- The solution of Kepler's equation is a wrapped angle, after 1 to `MAXIT` iterations (R150). -/
theorem ensures_kepler (m e : Int) :
    Ensures (kepler m e) fun r =>
      (-Config.piQ + 1 ≤ r.1 ∧ r.1 ≤ Config.piQ) ∧ 1 ≤ r.2 ∧ r.2 ≤ Config.maxit := by
  unfold kepler
  refine (ensures_keplerLoop _ _ _ _ _).bind fun r hr => (ensures_true _).bind fun _ _ =>
    ensures_pure ?_
  have : Config.maxit = 64 := rfl
  exact ⟨wrapPi_range _, by omega, by omega⟩

/-- The eight results of a propagation fit their registers, the eccentric anomaly is a wrapped angle,
and the iterations are 1 to `MAXIT` (R160). -/
theorem ensures_propagate (el : Elements) (t toa : Int) (hz : Nat) :
    Ensures (propagate el t toa hz) fun o =>
      (Wrapped o.px ∧ Wrapped o.py ∧ Wrapped o.pz ∧ Wrapped o.vx ∧ Wrapped o.vy ∧ Wrapped o.vz ∧
        Wrapped o.tk) ∧ (-Config.piQ + 1 ≤ o.ea ∧ o.ea ≤ Config.piQ) ∧
        1 ≤ o.it ∧ o.it ≤ Config.maxit := by
  have htime : Ensures (propTime t toa hz) fun p => Wrapped p.1 := by
    unfold propTime
    split
    · exact (ensures_true _).bind fun _ _ => ensures_pure (show wrapS 128 0 = 0 by decide)
    · exact (ensures_fxReduce _).bind fun _ h => ensures_pure h
  have hmean : ∀ tk, Ensures (propMean el tk) fun mm =>
      (-Config.piQ + 1 ≤ mm.ea ∧ mm.ea ≤ Config.piQ) ∧ 1 ≤ mm.it ∧ mm.it ≤ Config.maxit := by
    intro tk
    unfold propMean
    repeat' first
      | with_reducible exact (ensures_kepler _ _).bind fun _ h => ensures_pure h
      | refine (ensures_true _).bind fun _ _ => ?_
  have hrot : ∀ tk sow p, Ensures (propRotate el tk sow p) fun r =>
      Wrapped r.px ∧ Wrapped r.py ∧ Wrapped r.pz := by
    intro tk sow p
    unfold propRotate
    iterate 12 refine (ensures_true _).bind fun _ _ => ?_
    refine (ensures_fxReduce _).bind fun _ hx => (ensures_true _).bind fun _ _ =>
      (ensures_true _).bind fun _ _ => (ensures_fxReduce _).bind fun _ hy =>
      (ensures_fxReduce _).bind fun _ hz => ensures_pure ⟨hx, hy, hz⟩
  have hvel : ∀ mm p r, Ensures (propVelocity el mm p r) fun v =>
      Wrapped v.1 ∧ Wrapped v.2.1 ∧ Wrapped v.2.2 := by
    intro mm p r
    unfold propVelocity
    iterate 22 refine (ensures_true _).bind fun _ _ => ?_
    refine (ensures_true _).bind fun _ _ => (ensures_fxReduce _).bind fun _ hx => ?_
    iterate 5 refine (ensures_true _).bind fun _ _ => ?_
    refine (ensures_fxReduce _).bind fun _ hy => (ensures_true _).bind fun _ _ =>
      (ensures_true _).bind fun _ _ => (ensures_fxReduce _).bind fun _ hz =>
      ensures_pure ⟨hx, hy, hz⟩
  unfold propagate
  refine htime.bind fun _ ht => (hmean _).bind fun _ hm => (ensures_true _).bind fun _ _ =>
    (hrot _ _ _).bind fun _ hr => (hvel _ _ _).bind fun _ hv => ensures_pure ?_
  exact ⟨⟨hr.1, hr.2.1, hr.2.2, hv.1, hv.2.1, hv.2.2, ht⟩, hm⟩

/-- The registers outside q16 to q23 that storing the results of a propagation leaves alone (R160). -/
theorem State.qval_storeOrbit_of_other (s : State) (o : OrbitState) (r : QReg)
    (hr : r.toNat < 16 ∨ 23 < r.toNat) : (s.storeOrbit o).qval r = s.qval r := by
  have hk : ∀ (u : State) n r, (u.setKiter n).qval r = u.qval r := fun _ _ _ => rfl
  have h : r ≠ 16 ∧ r ≠ 17 ∧ r ≠ 18 ∧ r ≠ 19 ∧ r ≠ 20 ∧ r ≠ 21 ∧ r ≠ 22 ∧ r ≠ 23 := by
    revert r; decide
  obtain ⟨h₁, h₂, h₃, h₄, h₅, h₆, h₇, h₈⟩ := h
  simp only [State.storeOrbit, hk, State.qval_setQ]
  rw [if_neg h₈, if_neg h₇, if_neg h₆, if_neg h₅, if_neg h₄, if_neg h₃, if_neg h₂, if_neg h₁]

/-- What q16 to q23 hold after the results of a propagation that fit their registers are stored (R160). -/
theorem State.storeOrbit_results (s : State) (o : OrbitState)
    (h : Wrapped o.px ∧ Wrapped o.py ∧ Wrapped o.pz ∧ Wrapped o.vx ∧ Wrapped o.vy ∧ Wrapped o.vz ∧
      Wrapped o.tk) (he : Wrapped o.ea) :
    (s.storeOrbit o).qval 16 = o.px ∧ (s.storeOrbit o).qval 17 = o.py ∧
      (s.storeOrbit o).qval 18 = o.pz ∧ (s.storeOrbit o).qval 19 = o.vx ∧
      (s.storeOrbit o).qval 20 = o.vy ∧ (s.storeOrbit o).qval 21 = o.vz ∧
      (s.storeOrbit o).qval 22 = o.ea ∧ (s.storeOrbit o).qval 23 = o.tk := by
  obtain ⟨w₁, w₂, w₃, w₄, w₅, w₆, w₇⟩ := h
  have hk : ∀ (u : State) n r, (u.setKiter n).qval r = u.qval r := fun _ _ _ => rfl
  unfold Wrapped at *
  simp only [State.storeOrbit, hk, State.qval_setQ]
  refine ⟨?_, ?_, ?_, ?_, ?_, ?_, ?_, ?_⟩
  all_goals simp [*]

end Sys2Proof.Machine
end

