-- ==== Sys2Proof/Laws/Commands.lean ====
section
/-! SUPPORT. What the shared operations of the commands can do: completing, raising a fault, packing a
field, the interleaver's ring, the encoder's run, the integer square root. -/

namespace Sys2Proof.Machine

/-! Completion. -/

/-- Taking a fault leaves exactly what R295 says. -/
theorem State.enterFault_leaves (s : State) (c : Cause) (w : Word) :
    faultLeaves s (s.enterFault c w) c.code w := by
  unfold State.enterFault State.faulted
  by_cases h : s.cur.fsr = 0
  · simp only [h, ne_eq, not_true_eq_false, decide_false, Bool.false_eq_true, if_false]
    refine ⟨rfl, fun k hk => ?_, ?_⟩
    · exact (State.bank_setCur s _ k).trans (if_neg hk)
    · rw [if_pos h]; exact State.cur_setCur s _
  · simp only [h, ne_eq, not_false_eq_true, decide_true, if_true]
    refine ⟨rfl, fun k _ => rfl, ?_⟩
    rw [if_neg h]; rfl

theorem State.runCommand_faulted {s : State} (h : s.cur.fsr ≠ 0) (w : Word)
    (body : State → Except Cause State) : s.runCommand w body = { s with lastst := 8 } := by
  rw [State.runCommand, if_pos (by simpa [State.faulted] using h)]; rfl

theorem State.runCommand_ok {s t : State} (h : s.cur.fsr = 0) {w : Word}
    {body : State → Except Cause State} (hb : body s = .ok t) :
    s.runCommand w body = { t with lastst := 0 } := by
  simp [State.runCommand, State.faulted, h, hb, State.setLastst]

theorem State.runCommand_error {s : State} (h : s.cur.fsr = 0) {w : Word} {c : Cause}
    {body : State → Except Cause State} (hb : body s = .error c) :
    s.runCommand w body = s.enterFault c w := by
  simp [State.runCommand, State.faulted, h, hb]

/-- What a command of a context can do: be refused, raise the fault its checks name, or have its
effect. -/
theorem State.runCommand_cases (s : State) (w : Word) (body : State → Except Cause State) :
    (s.cur.fsr ≠ 0 ∧ s.runCommand w body = { s with lastst := 8 }) ∨
      (s.cur.fsr = 0 ∧ ∃ c, body s = .error c ∧ s.runCommand w body = s.enterFault c w) ∨
      (s.cur.fsr = 0 ∧ ∃ t, body s = .ok t ∧ s.runCommand w body = { t with lastst := 0 }) := by
  by_cases h : s.cur.fsr = 0
  · cases hb : body s with
    | error c => exact .inr (.inl ⟨h, c, rfl, State.runCommand_error h hb⟩)
    | ok t => exact .inr (.inr ⟨h, t, rfl, State.runCommand_ok h hb⟩)
  · exact .inl ⟨h, State.runCommand_faulted h w body⟩

@[simp] theorem State.enterFault_lastst (s : State) (c : Cause) (w : Word) :
    (s.enterFault c w).lastst = c.code := rfl

theorem State.runExempt_eq (s : State) (body : State → State) :
    s.runExempt body = { body s with lastst := 0 } := rfl

/-- A code of a fault is neither 0 nor 8. -/
theorem Cause.code_ne (c : Cause) : c.code ≠ 0 ∧ c.code ≠ 8 := by cases c <;> decide

theorem Cause.code_range (c : Cause) : 1 ≤ c.code.toNat ∧ c.code.toNat ≤ 7 := by
  cases c <;> decide

@[simp] theorem inRange_iff (a n size : Nat) : inRange a n size = true ↔ a + n ≤ size := by
  simp [inRange]

/-- `flag(F)` when a decidable condition fails, in the terms of claims. -/
theorem raiseIf_eq_flagged (f : Flag) (c : Prop) [Decidable c] (b : Bool) (st : BitVec 8)
    (h : b = true ↔ c) : raiseIf f b st = flagged c f st := by
  by_cases hc : c
  · simp [raiseIf, flagged, h.2 hc, hc]
  · have : b = false := by simpa [hc] using h
    simp [raiseIf, flagged, this, hc]

theorem fitsS_iff (n : Nat) (v : Int) :
    fitsS n v = true ↔ -(2 ^ (n - 1)) ≤ v ∧ v < 2 ^ (n - 1) := by
  simp [fitsS]

theorem fitsU_iff (n : Nat) (v : Int) : fitsU n v = true ↔ 0 ≤ v ∧ v < 2 ^ n := by
  simp [fitsU]

/-! The frames of claims, from the updates the meanings make. -/

/-- A command whose checks pass completes. -/
theorem exec_ok {i : Instr} {s t : State} {body : State → Except Cause State} (h : s.cur.fsr = 0)
    (he : exec i s = .next (s.runCommand (encode i) body)) (hb : body s = .ok t) :
    exec i s = .next { t with lastst := 0 } := by
  rw [he, State.runCommand_ok h hb]

/-- A command whose checks name a cause raises it. -/
theorem exec_error {i : Instr} {s : State} {c : Cause} {body : State → Except Cause State}
    (h : s.cur.fsr = 0) (he : exec i s = .next (s.runCommand (encode i) body))
    (hb : body s = .error c) : faultsWith i s c.code := by
  refine ⟨_, he, ?_⟩
  rw [State.runCommand_error h hb]
  exact State.enterFault_leaves s c _

theorem onlyCur_setCur (s : State) (c : Context) :
    onlyCur s { s.setCur c with lastst := 0 } c :=
  ⟨rfl, fun k hk => (State.bank_setCur s c k).trans (if_neg hk), State.cur_setCur s c⟩

theorem onlyX_setX (s : State) (st : BitVec 8) (rd : XReg) (v : Int) :
    onlyX s { (s.setStatus st).setX rd v with lastst := 0 } rd :=
  ⟨rfl, fun r hr => (State.xreg_setX _ rd v r).trans (if_neg hr)⟩

theorem onlyBm_writeBits (s : State) (a : Nat) (bs : List Bool) :
    onlyBm s { s.writeBits a bs with lastst := 0 } a bs.length :=
  ⟨rfl, fun b hb => (State.bit_writeBits s a bs b).trans (dif_neg (by omega))⟩

theorem onlyBmCur_writeBits (s : State) (a : Nat) (bs : List Bool) (c : Context) :
    onlyBmCur s { (s.writeBits a bs).setCur c with lastst := 0 } a bs.length c :=
  ⟨rfl, fun b hb => (State.bit_writeBits s a bs b).trans (dif_neg (by omega)),
    fun k hk => (State.bank_setCur s c k).trans (if_neg hk), State.cur_setCur _ c⟩

/-- A command that writes one operand register, with the flags `st` it leaves. -/
theorem exec_ok_setX {i : Instr} {s : State} {body : State → Except Cause State} {st : BitVec 8}
    {rd : XReg} {v : Int} (h : s.cur.fsr = 0) (he : exec i s = .next (s.runCommand (encode i) body))
    (hb : body s = .ok ((s.setStatus st).setX rd v)) :
    ∃ t, exec i s = .next t ∧ onlyX s t rd ∧ t.xreg rd = BitVec.ofInt 64 v ∧ t.status = st :=
  ⟨_, exec_ok h he hb, onlyX_setX s st rd v, (State.xreg_setX _ rd v rd).trans (if_pos rfl), rfl⟩

/-! The checks of the meanings, in the terms of claims. -/

theorem badTick_iff (s : State) : s.badTick = true ↔ tickIllegal s := by
  simp [State.badTick, tickIllegal]

theorem noSignal_iff (s : State) : s.noSignal = true ↔ signalUnsupported s := by
  simp [State.noSignal, CatalogEntry.unsupported, signalUnsupported]

theorem badGeometry_iff (c : Context) : c.badGeometry = true ↔ geometryIllegal c := by
  simp [Context.badGeometry, geometryIllegal, or_assoc]

theorem badInterleaver_iff (c : Context) : c.badInterleaver = true ↔ interleaverIllegal c := by
  simp [Context.badInterleaver, interleaverIllegal, or_assoc, show Config.ilvMax = 2048 from rfl]

/-! Runs of bits. -/

@[simp] theorem msbBits_length (w v : Nat) : (msbBits w v).length = w := by simp [msbBits]

@[simp] theorem spareBits_length (sp : BitVec 64) (len w : Nat) :
    (spareBits sp len w).length = w := by simp [spareBits]

@[simp] theorem State.bits_length (s : State) (a n : Nat) : (s.bits a n).length = n := by
  simp [State.bits]

@[simp] theorem State.tileBits_length (s : State) (base len k0 n : Nat) :
    (s.tileBits base len k0 n).length = n := by simp [State.tileBits]

@[simp] theorem State.interleaved_length (s : State) (n : Nat) :
    (s.interleaved n).length = n := by simp [State.interleaved]

/-- What a write of a run of bits leaves: the run, and every other bit as it was. -/
theorem State.writeBits_spec (s : State) (a : Nat) (bs : List Bool) :
    sameBitsOutside s (s.writeBits a bs) a bs.length ∧
      ∀ i (h : i < bs.length), (s.writeBits a bs).bit (a + i) = bs[i] := by
  refine ⟨fun b hb => ?_, fun i h => ?_⟩
  · rw [State.bit_writeBits, dif_neg (by omega)]
  · rw [State.bit_writeBits, dif_pos (by omega)]
    simp

/-- All that laying a run of bits at `WP` and advancing it does. -/
theorem layBits_spec (s : State) (bs : List Bool) :
    let t := (s.writeBits s.cur.wp.toNat bs).advanceWp bs.length
    onlyBmCur s { t with lastst := 0 } s.cur.wp.toNat bs.length
        { s.cur with wp := BitVec.ofNat 32 ((s.cur.wp.toNat + bs.length) % 2 ^ 32) } ∧
      ∀ i (h : i < bs.length), t.bit (s.cur.wp.toNat + i) = bs[i] := by
  have hwp : BitVec.ofNat 32 ((s.cur.wp.toNat + bs.length) % 2 ^ 32) =
      BitVec.ofNat 32 (s.cur.wp.toNat + bs.length) := by
    apply BitVec.eq_of_toNat_eq; simp
  refine ⟨?_, fun i h => (s.writeBits_spec s.cur.wp.toNat bs).2 i h⟩
  rw [hwp]
  exact onlyBmCur_writeBits s s.cur.wp.toNat bs _

/-- All that packing a field can do: raise `BM_RANGE`, or lay it, most significant bit first. -/
theorem packField_spec (w v : Nat) (s : State) :
    (s.params.bmBits < s.cur.wp.toNat + w → packField w v s = .error .bmRange) ∧
      (s.cur.wp.toNat + w ≤ s.params.bmBits → ∃ t, packField w v s = .ok t ∧
        onlyBmCur s { t with lastst := 0 } s.cur.wp.toNat w
          { s.cur with wp := BitVec.ofNat 32 ((s.cur.wp.toNat + w) % 2 ^ 32) } ∧
        ∀ i, i < w → t.bit (s.cur.wp.toNat + i) = v.testBit (w - 1 - i)) := by
  refine ⟨fun h => ?_, fun h => ⟨_, by rw [packField, if_pos (by simpa using h)], ?_⟩⟩
  · rw [packField, if_neg (by simpa using h)]
  · have := layBits_spec s (msbBits w v)
    simp only [msbBits_length] at this
    exact ⟨this.1, fun i hi => (this.2 i hi).trans (by simp [msbBits])⟩

/-! The interleaver's ring. -/

/-- A run of bits written around a ring of `n` cells: each cell takes the last bit written to it. -/
theorem get?_ringWrite (n : Nat) (bs : List Bool) (start : Nat) (m : Memory Bool) :
    (∀ i (h : i < bs.length), bs.length ≤ i + n →
      (ringWrite n start bs m).get? ((start + i) % n) = some bs[i]) ∧
    ∀ c, (∀ i, i < bs.length → (start + i) % n ≠ c) → (ringWrite n start bs m).get? c = m.get? c := by
  induction bs generalizing start m with
  | nil => exact ⟨fun i h => absurd h (by simp), fun c _ => rfl⟩
  | cons b bs ih =>
    obtain ⟨ih₁, ih₂⟩ := ih (start + 1) (m.put (start % n) b)
    simp only [List.length_cons]
    refine ⟨fun i h hn => ?_, fun c hc => ?_⟩
    · cases i with
      | zero =>
        rw [ringWrite, Nat.add_zero, ih₂]
        · simp
        · intro j hj heq
          have h₁ : (start + (j + 1)) % n = start % n := by
            refine Eq.trans ?_ (show (start + 1 + j) % n = start % n from heq)
            congr 1; omega
          have h₂ := Nat.sub_mod_eq_zero_of_mod_eq h₁
          rw [Nat.add_sub_cancel_left] at h₂
          have := Nat.le_of_dvd (by omega) (Nat.dvd_of_mod_eq_zero h₂)
          omega
      | succ i =>
        have := ih₁ i (by omega) (by omega)
        rw [ringWrite]
        rw [show start + (i + 1) = start + 1 + i by omega, this]
        simp
    · rw [ringWrite, ih₂]
      · have := hc 0 (by omega)
        rw [Memory.get?_put, if_neg]
        simpa [eq_comm] using this
      · intro i hi
        have := hc (i + 1) (by omega)
        rwa [show start + 1 + i = start + (i + 1) by omega]

/-- The ring keeps the canonical form of a store that holds its cells. -/
theorem wf_ringWrite {size n : Nat} (hn : 0 < n) (hs : n ≤ size) (bs : List Bool) (start : Nat)
    {m : Memory Bool} (h : Memory.wf size m) : Memory.wf size (ringWrite n start bs m) := by
  induction bs generalizing start m with
  | nil => exact h
  | cons b bs ih =>
    exact ih _ (Memory.wf_put h _ _ (Nat.lt_of_lt_of_le (Nat.mod_lt _ hn) hs))

/-! The encoder. -/

@[simp] theorem convRun_length (cfg : BitVec 17) (csr : BitVec 6) (us : List Bool) :
    (convRun cfg csr us).2.length = 2 * us.length := by
  induction us generalizing csr with
  | nil => rfl
  | cons u us ih => simp [convRun, ih]; omega

/-! The integer square root. -/

theorem isqrtFrom_spec (b r n : Nat) (h₁ : r * r ≤ n) (h₂ : n < (r + 2 ^ b) * (r + 2 ^ b)) :
    isqrtFrom b r n * isqrtFrom b r n ≤ n ∧
      n < (isqrtFrom b r n + 1) * (isqrtFrom b r n + 1) := by
  induction b generalizing r with
  | zero => exact ⟨h₁, by simpa [isqrtFrom] using h₂⟩
  | succ b ih =>
    rw [isqrtFrom]
    split
    · rename_i h
      exact ih _ h (by rwa [Nat.add_assoc, ← Nat.two_mul, ← Nat.pow_succ'])
    · rename_i h
      exact ih _ h₁ (by omega)

/-- The integer square root is the largest integer whose square is at most its argument. -/
theorem isqrt_spec (n : Nat) :
    isqrt n * isqrt n ≤ n ∧ n < (isqrt n + 1) * (isqrt n + 1) := by
  refine isqrtFrom_spec _ _ _ (by simp) ?_
  have h : n < 2 ^ (Nat.log2 n + 1) := Nat.lt_log2_self
  have h₂ : Nat.log2 n + 1 ≤ (Nat.log2 n / 2 + 1) + (Nat.log2 n / 2 + 1) := by omega
  have h₃ := Nat.pow_le_pow_right (n := 2) (by omega) h₂
  rw [Nat.zero_add, ← Nat.pow_add]
  exact Nat.lt_of_lt_of_le h h₃

end Sys2Proof.Machine
end

