-- ==== Sys2Proof/Laws/PerInstr.lean ====
section
/-! SUPPORT. A law of every command as syntax, one lemma per constructor: the word the encoder writes
matches the row of the opcode table that bears the command's mnemonic (30_encoding.md R115, R116, R120). -/

namespace Sys2Proof.Laws.EncodeRow

/-- The mnemonic of a command (R115). -/
def mnemonic : Instr → String
  | .nop => "NOP"
  | .ctxclr => "CTXCLR"
  | .selsig _ => "SELSIG"
  | .fecrst => "FECRST"
  | .pack _ _ _ => "PACK"
  | .packi _ _ => "PACKI"
  | .packsp _ => "PACKSP"
  | .qscale _ _ _ _ => "QSCALE"
  | .pwlq _ _ _ => "PWLQ"
  | .crc24 _ _ _ => "CRC24"
  | .crcput => "CRCPUT"
  | .conv _ _ _ _ => "CONV"
  | .ilvw _ _ => "ILVW"
  | .ilvr _ _ => "ILVR"
  | .t2b _ _ => "T2B"
  | .seek _ => "SEEK"
  | .adv => "ADV"
  | .wtype _ => "WTYPE"
  | .almidx _ => "ALMIDX"
  | .bcopy _ _ _ => "BCOPY"
  | .tile _ _ _ _ _ => "TILE"
  | .mod _ _ _ => "MOD"
  | .modofs _ => "MODOFS"
  | .kepler _ _ _ => "KEPLER"
  | .prop _ _ => "PROP"
  | .reldly _ => "RELDLY"

/-- The word of the command has the fixed bits of its row: its must-be-zero bits are 0. -/
def Statement (i : Instr) : Prop :=
  ∃ r ∈ opcodeTable, r.mnemonic = mnemonic i ∧ encode i &&& r.mask = r.bits

/-- A field put at bit `lo` is invisible under a mask that has no bit of the field. -/
theorem place_and {n : Nat} (lo : Nat) (v : BitVec n) (mask : Word)
    (h : ((BitVec.allOnes n).setWidth 32 <<< lo) &&& mask = 0#32) : place lo v &&& mask = 0#32 := by
  apply BitVec.eq_of_getLsbD_eq
  intro i hi
  have hb := congrArg (·.getLsbD i) h
  simp [place, hi] at hb ⊢
  intro h1 h2
  exact hb h1 (BitVec.lt_of_getLsbD h2)

/-- The width field of `PACK`, given to format I as the low 6 bits of its immediate (R112, R118). -/
theorem place_narrow (lo : Nat) (v : BitVec 6) : place lo (v.setWidth 16) = place lo v := by
  simp [place]

theorem nop : Statement .nop := by
  refine ⟨⟨"NOP", 0x00000000, 0xFFFFFFFF⟩, by simp [opcodeTable], rfl, ?_⟩
  rfl
theorem ctxclr : Statement .ctxclr := by
  refine ⟨⟨"CTXCLR", 0x01000000, 0xFFFFFFFF⟩, by simp [opcodeTable], rfl, ?_⟩
  rfl
theorem selsig (ra : XReg) : Statement (.selsig ra) := by
  refine ⟨⟨"SELSIG", 0x02000000, 0xFFF0FFFF⟩, by simp [opcodeTable], rfl, ?_⟩
  simp (disch := decide) only [encode, formatR, BitVec.and_or_distrib_right, place_and]
  rfl
theorem fecrst : Statement .fecrst := by
  refine ⟨⟨"FECRST", 0x03000000, 0xFFFFFFFF⟩, by simp [opcodeTable], rfl, ?_⟩
  rfl
theorem pack (ra : XReg) (signed : Bool) (wm1 : BitVec 6) : Statement (.pack ra signed wm1) := by
  refine ⟨⟨"PACK", 0x10000000, 0xFF0EFFC0⟩, by simp [opcodeTable], rfl, ?_⟩
  simp (disch := decide) only [encode, formatI, place_narrow, BitVec.and_or_distrib_right, place_and]
  rfl
theorem packi (wm1 : BitVec 4) (imm : BitVec 16) : Statement (.packi wm1 imm) := by
  refine ⟨⟨"PACKI", 0x11000000, 0xFF0F0000⟩, by simp [opcodeTable], rfl, ?_⟩
  simp (disch := decide) only [encode, formatI, BitVec.and_or_distrib_right, place_and]
  rfl
theorem packsp (w : BitVec 16) : Statement (.packsp w) := by
  refine ⟨⟨"PACKSP", 0x12000000, 0xFFFF0000⟩, by simp [opcodeTable], rfl, ?_⟩
  simp (disch := decide) only [encode, formatI, BitVec.and_or_distrib_right, place_and]
  rfl
theorem qscale (rd : XReg) (qa : QReg) (k : BitVec 7) (sc : Bool) : Statement (.qscale rd qa k sc) := by
  refine ⟨⟨"QSCALE", 0x13000000, 0xFF00007F⟩, by simp [opcodeTable], rfl, ?_⟩
  simp (disch := decide) only [encode, formatS, BitVec.and_or_distrib_right, place_and]
  rfl
theorem pwlq (rd ra : XReg) (up : Bool) : Statement (.pwlq rd ra up) := by
  refine ⟨⟨"PWLQ", 0x14000000, 0xFF00FFFE⟩, by simp [opcodeTable], rfl, ?_⟩
  simp (disch := decide) only [encode, formatR, BitVec.and_or_distrib_right, place_and]
  rfl
theorem crc24 (ra rb : XReg) (cont : Bool) : Statement (.crc24 ra rb cont) := by
  refine ⟨⟨"CRC24", 0x20000000, 0xFFF00FFE⟩, by simp [opcodeTable], rfl, ?_⟩
  simp (disch := decide) only [encode, formatR, BitVec.and_or_distrib_right, place_and]
  rfl
theorem crcput : Statement .crcput := by
  refine ⟨⟨"CRCPUT", 0x21000000, 0xFFFFFFFF⟩, by simp [opcodeTable], rfl, ?_⟩
  rfl
theorem conv (rd ra rb : XReg) (keep : Bool) : Statement (.conv rd ra rb keep) := by
  refine ⟨⟨"CONV", 0x22000000, 0xFF000FFE⟩, by simp [opcodeTable], rfl, ?_⟩
  simp (disch := decide) only [encode, formatR, BitVec.and_or_distrib_right, place_and]
  rfl
theorem ilvw (ra rb : XReg) : Statement (.ilvw ra rb) := by
  refine ⟨⟨"ILVW", 0x23000000, 0xFFF00FFF⟩, by simp [opcodeTable], rfl, ?_⟩
  simp (disch := decide) only [encode, formatR, BitVec.and_or_distrib_right, place_and]
  rfl
theorem ilvr (rd rb : XReg) : Statement (.ilvr rd rb) := by
  refine ⟨⟨"ILVR", 0x24000000, 0xFF0F0FFF⟩, by simp [opcodeTable], rfl, ?_⟩
  simp (disch := decide) only [encode, formatR, BitVec.and_or_distrib_right, place_and]
  rfl
theorem t2b (rd ra : XReg) : Statement (.t2b rd ra) := by
  refine ⟨⟨"T2B", 0x30000000, 0xFF00FFFF⟩, by simp [opcodeTable], rfl, ?_⟩
  simp (disch := decide) only [encode, formatR, BitVec.and_or_distrib_right, place_and]
  rfl
theorem seek (ra : XReg) : Statement (.seek ra) := by
  refine ⟨⟨"SEEK", 0x31000000, 0xFFF0FFFF⟩, by simp [opcodeTable], rfl, ?_⟩
  simp (disch := decide) only [encode, formatR, BitVec.and_or_distrib_right, place_and]
  rfl
theorem adv : Statement .adv := by
  refine ⟨⟨"ADV", 0x32000000, 0xFFFFFFFF⟩, by simp [opcodeTable], rfl, ?_⟩
  rfl
theorem wtype (rd : XReg) : Statement (.wtype rd) := by
  refine ⟨⟨"WTYPE", 0x33000000, 0xFF0FFFFF⟩, by simp [opcodeTable], rfl, ?_⟩
  simp (disch := decide) only [encode, formatR, BitVec.and_or_distrib_right, place_and]
  rfl
theorem almidx (rd : XReg) : Statement (.almidx rd) := by
  refine ⟨⟨"ALMIDX", 0x34000000, 0xFF0FFFFF⟩, by simp [opcodeTable], rfl, ?_⟩
  simp (disch := decide) only [encode, formatR, BitVec.and_or_distrib_right, place_and]
  rfl
theorem bcopy (rd ra rb : XReg) : Statement (.bcopy rd ra rb) := by
  refine ⟨⟨"BCOPY", 0x35000000, 0xFF000FFF⟩, by simp [opcodeTable], rfl, ?_⟩
  simp (disch := decide) only [encode, formatR, BitVec.and_or_distrib_right, place_and]
  rfl
theorem tile (rd ra rb rc re : XReg) : Statement (.tile rd ra rb rc re) := by
  refine ⟨⟨"TILE", 0x36000000, 0xFF00000F⟩, by simp [opcodeTable], rfl, ?_⟩
  simp (disch := decide) only [encode, formatR, BitVec.and_or_distrib_right, place_and]
  rfl
theorem mod (rd ra rb : XReg) : Statement (.mod rd ra rb) := by
  refine ⟨⟨"MOD", 0x40000000, 0xFF000FFF⟩, by simp [opcodeTable], rfl, ?_⟩
  simp (disch := decide) only [encode, formatR, BitVec.and_or_distrib_right, place_and]
  rfl
theorem modofs (rd : XReg) : Statement (.modofs rd) := by
  refine ⟨⟨"MODOFS", 0x41000000, 0xFF0FFFFF⟩, by simp [opcodeTable], rfl, ?_⟩
  simp (disch := decide) only [encode, formatR, BitVec.and_or_distrib_right, place_and]
  rfl
theorem kepler (qd qa qb : QReg) : Statement (.kepler qd qa qb) := by
  refine ⟨⟨"KEPLER", 0x50000000, 0xFF0001FF⟩, by simp [opcodeTable], rfl, ?_⟩
  simp (disch := decide) only [encode, formatQ, BitVec.and_or_distrib_right, place_and]
  rfl
theorem prop (ra rb : XReg) : Statement (.prop ra rb) := by
  refine ⟨⟨"PROP", 0x51000000, 0xFFF00FFF⟩, by simp [opcodeTable], rfl, ?_⟩
  simp (disch := decide) only [encode, formatR, BitVec.and_or_distrib_right, place_and]
  rfl
theorem reldly (qd : QReg) : Statement (.reldly qd) := by
  refine ⟨⟨"RELDLY", 0x52000000, 0xFF07FFFF⟩, by simp [opcodeTable], rfl, ?_⟩
  simp (disch := decide) only [encode, formatQ, BitVec.and_or_distrib_right, place_and]
  rfl

end Sys2Proof.Laws.EncodeRow
end

