-- ==== Sys2Proof/Machine/Procedures.lean ====
section
/-! DEFINITION. The host's procedures: the pseudo-instructions of 30_encoding.md R121, the FEC pass of
43_fec.md R242 and the slice extraction of 42_sequencer.md R209. They are sequences of transactions; the
block knows nothing of them (DESIGN CHOICE, log 15: what the host knows without reading it, and what it does
after a fault; unsafe for a claim about a procedure in which a command faults. DESIGN CHOICE, log 17: operands
outside the bounds the rules give; unsafe for a claim about such operands). -/

namespace Sys2Proof.Machine

/-- The `Cmd` transaction that presents a command. -/
def HostEvent.ofInstr (i : Instr) : HostEvent := .cmd (encode i)

/-- `WR xn, v`: a `RegWrite` to an operand register (R120). -/
def wrX (r : XReg) (v : Int) : HostEvent := .regWrite r.toNat (BitVec.ofInt 128 v)

/-- `WR WP, a` (R120). -/
def wrWp (a : Nat) : HostEvent := .regWrite 0x084 (BitVec.ofNat 128 a)

/-- `PACKI v, w` for a width of 1 to 16 (R120). -/
def packiOf (v w : Nat) : HostEvent := .ofInstr (.packi (BitVec.ofNat 4 (w - 1)) (BitVec.ofNat 16 v))

/-- `PACKZ w`: appends `w` zero bits (R121, for `w ≥ 1`). `w = 0`, which R242 does not exclude for `NTAIL`,
presents nothing, as the expansion written for `w ≥ 1` would (DESIGN CHOICE, log 17, unsafe for a claim about
that case). -/
def packz (w : Nat) : List HostEvent :=
  List.replicate (w / 16) (packiOf 0 16) ++ if w % 16 = 0 then [] else [packiOf 0 (w % 16)]

/-- `PACKB v, w`: a pattern of 1 to 32 bits (R121). No rule says what it is for other widths, and R242 bounds
`NSYNC` only above. With `w = 0` it presents nothing, so that `WP` stays; above 32 bits the width field of the
first `PACKI` takes `w − 17` modulo 16 (DESIGN CHOICE, log 17, unsafe for a claim about such a width). -/
def packb (v w : Nat) : List HostEvent :=
  if w = 0 then []
  else if w ≤ 16 then [packiOf v w] else [packiOf (v / 65536) (w - 16), packiOf (v % 65536) 16]

/-- The operands of `FECPASS` but its output address (R242). That R242's requirements hold
(`2·(NP − NPRE + c + NTAIL) = ROWS·COLS`, `NPRE ≤ NP`, `NSYNC ≤ 32`) is the host's duty; the sequence does not
check them (DESIGN CHOICE, log 17, unsafe for a claim about a pass that breaks them). -/
structure FecShape where
  p : Nat
  npre : Nat
  np : Nat
  ntail : Nat
  e : Nat
  sync : Nat
  nsync : Nat
  crc : Bool
deriving DecidableEq, Repr

/-- The CRC bits of the part: 24 or none (R242). -/
def FecShape.crcLen (f : FecShape) : Nat := if f.crc then 24 else 0

/-- `2·(NP − NPRE + c + NTAIL)`, the symbols of the part (R242: it must be `N = ROWS·COLS`). -/
def FecShape.symbols (f : FecShape) : Nat := 2 * (f.np - f.npre + f.crcLen + f.ntail)

/-- `FECPASS` with output address `o`: the nine steps of R242. With `nsync = 0` step 7 packs no sync pattern
(DESIGN CHOICE, log 17). -/
def fecpass (f : FecShape) (o : Nat) : List HostEvent :=
  [.ofInstr .fecrst, wrX 1 (f.p + f.npre), wrX 2 ((f.np - f.npre : Nat) : Int)] ++
  (if f.crc then [.ofInstr (.crc24 1 2 false), wrWp (f.p + f.np), .ofInstr .crcput]
   else [wrWp (f.p + f.np)]) ++
  packz f.ntail ++
  [wrX 2 ((f.np - f.npre + f.crcLen + f.ntail : Nat) : Int), wrX 3 f.e, .ofInstr (.conv 3 1 2 false),
   wrX 2 f.symbols, .ofInstr (.ilvw 3 2), wrWp o] ++
  packb f.sync f.nsync ++
  [wrX 4 ((o + f.nsync : Nat) : Int), wrX 1 f.p, wrX 5 f.npre, .ofInstr (.bcopy 4 1 5),
   wrX 4 ((o + f.nsync + f.npre : Nat) : Int), .ofInstr (.ilvr 4 2)]

/-- What follows a transaction that has a meaning. -/
def andThen (o : Host.Outcome State Fault Refusal) (f : State → Host.Outcome State Fault Refusal) :
    Host.Outcome State Fault Refusal :=
  match o with
  | .next t => f t
  | .fault r => .fault r
  | .refused r => .refused r

/-- A list of transactions, one after another (R93, R337). -/
def performAll : List HostEvent → State → Host.Outcome State Fault Refusal
  | [], s => .next s
  | e :: es, s => andThen (perform e s) (performAll es)

/-- The value of the last answer given to the host (0 before any answer, and for a status). -/
def State.lastValue (s : State) : Nat :=
  match s.responses.getLast? with
  | some (.value v) => v.toNat
  | _ => 0

/-- `RD` of the register numbered `n` (R120), and what the host does with the value it is given. -/
def readThen (n : Nat) (f : Nat → State → Host.Outcome State Fault Refusal) (s : State) :
    Host.Outcome State Fault Refusal :=
  andThen (perform (.regRead n) s) fun t => f t.lastValue t

/-- The operands of `GENSLICE` (R209): the slice `[start, stop)` in ticks, the regions `CAT` and `OUT`. -/
structure SliceJob where
  start : Int
  stop : Int
  cat : Nat
  out : Nat
deriving DecidableEq, Repr

/-- One page part of a slice, as the host knows it when it packs the payload (R209, R210): how many parts were
generated before it, its place in the stream `Ks + m·PPB`, its place in the frame `(SF, PG, PP)`, what its
slot carries (x5 and x6), and its page transmission time. -/
structure PagePart where
  m : Nat
  position : Int
  sf : Nat
  pg : Nat
  pp : Nat
  wtype : Nat
  almidx : Nat
  time : Rat
deriving DecidableEq, Repr

/-- The page transmission time: "the instant (Ks + m·PPB)·TICK_HZ / BR ticks after the frame origin" (R209),
exactly. -/
def pageTime (position : Int) (tickHz br : Nat) : Rat := mkRat (position * tickHz) br

/-- The page part number `m` of a slice whose first page starts at the stream bit `ks`, in the state after
`WTYPE x5` and `ALMIDX x6`. -/
def State.pagePart (s : State) (ks : Int) (m : Nat) : PagePart :=
  let position := ks + m * s.cur.ppb.toNat
  { m := m, position := position, sf := s.cur.sf.toNat, pg := s.cur.pg.toNat, pp := s.cur.pp.toNat,
    wtype := s.xval 5, almidx := s.xval 6, time := pageTime position s.tickHz.toNat s.cur.br.toNat }

/-- What the host decides for each page part, and R209 leaves to it: the transactions that pack the payload
(it may read anything of the state), and the operands of `FECPASS` but its output address. -/
structure PageHost where
  payload : PagePart → State → List HostEvent
  shape : PagePart → FecShape

/-- Step 3 of R209: page part after page part, "until Ks + m·PPB ≥ K1 and PP = 0", with the `PP` that `RD PP`
gives. `fuel` bounds the parts. -/
def sliceParts (job : SliceJob) (host : PageHost) (ks k1 : Int) :
    Nat → Nat → State → Host.Outcome State Fault Refusal
  | 0, _, s => .next s
  | fuel + 1, m, s =>
    andThen (performAll [.ofInstr (.wtype 5), .ofInstr (.almidx 6)] s) fun s1 =>
      let part := s1.pagePart ks m
      andThen (performAll (host.payload part s1) s1) fun s2 =>
      andThen (performAll (fecpass (host.shape part) (job.cat + m * s2.cur.ppb.toNat) ++ [.ofInstr .adv])
        s2) fun s3 =>
        readThen 0x092 (fun pp s4 =>
          if k1 ≤ ks + (m + 1) * s4.cur.ppb.toNat ∧ pp = 0 then .next s4
          else sliceParts job host ks k1 fuel (m + 1) s4) s3

/-- `GENSLICE` (R209). With `K1 < K0` "the host must not start it" (R334 (c), U9): refused. -/
def genslice (job : SliceJob) (host : PageHost) (s : State) : Host.Outcome State Fault Refusal :=
  andThen (performAll [wrX 1 job.start, .ofInstr (.t2b 2 1), wrX 1 job.stop, .ofInstr (.t2b 3 1)] s)
    fun s1 =>
      let k0 := s1.xint 2
      let k1 := s1.xint 3
      if k1 < k0 then .refused .sliceEndsBeforeStart
      else if k1 = k0 then .next s1
      else
        andThen (perform (.ofInstr (.seek 2)) s1) <|
          readThen 0x092 fun pp => readThen 0x093 fun boff s2 =>
            let back := pp * s2.cur.ppb.toNat + boff
            let ks := k0 - back
            andThen (performAll [wrX 4 ks, .ofInstr (.seek 4)] s2) fun s3 =>
            andThen (sliceParts job host ks k1 ((k1 - ks).toNat + 2) 0 s3) fun s4 =>
              performAll [wrX 7 job.out, wrX 8 ((job.cat + back : Nat) : Int), wrX 9 (k1 - k0),
                .ofInstr (.bcopy 7 8 9)] s4

end Sys2Proof.Machine
end

