-- ==== Sys2Proof/Tests/Slice0.lean ====
section
/-! SUPPORT. Tests of the model. The expected results are the spec's own vectors (95_test_vectors.md,
96_test_vectors_mod_sys_faults.md), named in each docstring, or words written out from its encodings. -/

namespace Sys2Proof.Tests

open Sys2Proof Sys2Proof.Machine

/-! Encodings. -/

/-- R118: a `PACKI` whose value does not fit its width is not well-formed, and its word is refused. -/
theorem test_ill_formed_packi :
    (Instr.packi 1 4).wellFormed = false ∧
      decode 0x11100004 = .error (.packiValueTooWide 1 4) := by decide

/-- R115: no word is in two rows of the opcode map. -/
theorem test_rows_disjoint :
    opcodeTable.Pairwise (fun r t => r.bits &&& (r.mask &&& t.mask) ≠ t.bits &&& (r.mask &&& t.mask)) := by
  decide

/-- R116, R117: a reserved opcode and a nonzero must-be-zero bit are refused by name. -/
theorem test_illegal_words :
    decode 0x04000000 = .error (.reservedOpcode 0x04) ∧
      decode 0x32000001 = .error (.nonzeroReserved "ADV") ∧
      decode 0x00000001 = .error (.nonzeroReserved "NOP") := by decide

/-- R111, R115: words of format R without operands. -/
theorem test_decode_plain :
    decode 0b00000000000000000000000000000000 = .ok .nop ∧
      decode 0b00000001000000000000000000000000 = .ok .ctxclr ∧
      decode 0b00000011000000000000000000000000 = .ok .fecrst ∧
      decode 0b00100001000000000000000000000000 = .ok .crcput ∧
      decode 0b00110010000000000000000000000000 = .ok .adv := by decide

/-- R111, R115: words of format R with operands, every field another value. -/
theorem test_decode_registers :
    decode 0b00000010000001110000000000000000 = .ok (.selsig 7) ∧
      decode 0b00010100111011010000000000000001 = .ok (.pwlq 14 13 true) ∧
      decode 0b00100000000011001011000000000001 = .ok (.crc24 12 11 true) ∧
      decode 0b00100010101010011000000000000001 = .ok (.conv 10 9 8 true) ∧
      decode 0b00100011000001110110000000000000 = .ok (.ilvw 7 6) ∧
      decode 0b00100100010100000100000000000000 = .ok (.ilvr 5 4) ∧
      decode 0b00110000001100100000000000000000 = .ok (.t2b 3 2) ∧
      decode 0b00110001000000010000000000000000 = .ok (.seek 1) := by decide

/-- R111, R115: the other words of format R with operands. -/
theorem test_decode_registers_more :
    decode 0b00110011111100000000000000000000 = .ok (.wtype 15) ∧
      decode 0b00110100111000000000000000000000 = .ok (.almidx 14) ∧
      decode 0b00110101110111001011000000000000 = .ok (.bcopy 13 12 11) ∧
      decode 0b00110110000100100011010001010000 = .ok (.tile 1 2 3 4 5) ∧
      decode 0b01000000101010011000000000000000 = .ok (.mod 10 9 8) ∧
      decode 0b01000001011100000000000000000000 = .ok (.modofs 7) ∧
      decode 0b01010001000001100101000000000000 = .ok (.prop 6 5) := by decide

/-- R112, R113, R114, R115: words of the formats I, Q and S. -/
theorem test_decode_fields :
    decode 0b00010000100100010000000000111111 = .ok (.pack 9 true 63) ∧
      decode 0b00010001100000000000000111111111 = .ok (.packi 8 511) ∧
      decode 0b00010010000000001111111111111111 = .ok (.packsp 0xFFFF) ∧
      decode 0b00010011000100010011111100000000 = .ok (.qscale 1 2 63 false) ∧
      decode 0b01010000111111111011101000000000 = .ok (.kepler 31 30 29) ∧
      decode 0b01010010110110000000000000000000 = .ok (.reldly 27) := by decide

/-! One command each, from the state the host's writes leave. -/

/-- `WR` of the register numbered `n`. -/
def wr (n : Nat) (v : Int) : HostEvent := .regWrite n (BitVec.ofInt 128 v)

/-- `WRB`: the bits of a list of 0 and 1 from address `a` of BM. -/
def wrb (a : Nat) (bits : List Nat) : List HostEvent :=
  bits.zipIdx.map fun p => .spaceWrite .bm (a + p.2) (BitVec.ofNat 64 p.1)

/-- The state some transactions leave after reset, the answers dropped. -/
def host (es : List HostEvent) : State :=
  match performAll es State.reset with
  | .next t => { t with responses := [] }
  | _ => State.reset

/-- The state a command word leaves after those transactions; the host's answer is its status. -/
def after (es : List HostEvent) (w : Word) : State :=
  match performAll (es ++ [.cmd w]) State.reset with
  | .next t => t
  | _ => State.reset

/-- V-PCK-1 a: the field, no flag, `WP` and the answer. -/
theorem test_pack_signed :
    let s := after [wr 0x84 100, wr 3 0xFFFFFFFFAE833E49] 0x1031001F
    s.memRead 100 32 = 0xAE833E49 ∧ s.status = 0 ∧ s.cur.wp = 132 ∧ s.responses = [.status 0] := by
  decide +kernel

/-- V-PCK-1 g and n: a value that does not fit, and a field that passes the end of BM. -/
theorem test_pack_limits :
    (after [wr 3 8] 0x10300002).status = 1 ∧ (after [wr 3 8] 0x10300002).memRead 0 3 = 0 ∧
      let s := after [wr 0x84 8190, wr 3 5] 0x10300002
      s.cur.wp = 8190 ∧ s.cur.fsr = 3 ∧ s.cur.finfo = 0x10300002 ∧ s.bm = [] := by decide +kernel

/-- V-PCK-2 a. -/
theorem test_packi : (after [] 0x11900160).memRead 0 10 = 0b0101100000 := by decide +kernel

/-- V-PCK-3 b and f. -/
theorem test_packsp :
    (after [wr 0x46 6, wr 0x47 3] 0x12000007).memRead 0 7 = 0b1101101 ∧
      (after [wr 0x46 2, wr 0x47 0] 0x12000000).cur.fsr = 6 := by decide +kernel

/-- V-PCK-4 and row l: a negative angle in semicircles; the overflow of the result. -/
theorem test_qscale :
    (after [wr 0x27 (-(2 * 2 ^ 64))] 0x13239F80).xint 2 = -1367130551 ∧
      (after [wr 0x29 (2 ^ 64)] 0x1324BF00).status = 1 := by decide +kernel

/-- The two-segment table of V-PCK-7. -/
def segments : List HostEvent :=
  [.spaceWrite .qt 0 5, .spaceWrite .qt 1 1, .spaceWrite .qt 2 0, .spaceWrite .qt 3 10,
    .spaceWrite .qt 4 20, .spaceWrite .qt 5 1, .spaceWrite .qt 6 10, .spaceWrite .qt 7 5, wr 0x4A 2]

/-- V-PCK-7: below the table, and in the gap between the segments. -/
theorem test_pwlq :
    (after (segments ++ [wr 1 3]) 0x14210000).status = 1 ∧
      (after (segments ++ [wr 1 17]) 0x14210001).xval 2 = 10 := by decide +kernel

/-- V-FEC-1: the check value of CRC-24Q over "123456789" split at bit 40 (rows 4 and 8). -/
theorem test_crc24 :
    (after (wrb 40 (List.flatten [[0,0,1,1,0,1,1,0], [0,0,1,1,0,1,1,1], [0,0,1,1,1,0,0,0],
        [0,0,1,1,1,0,0,1]]) ++ [wr 0x45 0x864CFB, wr 1 40, wr 2 32, wr 0x97 0x198EC0])
      0x20012001).cur.crcr = 0xCDE703 ∧
    (after (wrb 0 [0,0,0,0,0,0,0,1] ++ [wr 0x45 0x864CFB, wr 2 8]) 0x20012000).cur.crcr = 0x864CFB := by
  decide +kernel

/-- V-FEC-2. -/
theorem test_crcput :
    let s := after [wr 0x97 0xABCDEF, wr 0x84 8168] 0x21000000
    s.memRead 8168 24 = 0xABCDEF ∧ s.cur.wp = 8192 := by decide +kernel

/-- V-FEC-3, second row: the symbols and the register left. -/
theorem test_conv :
    let s := after (wrb 0 [1, 0, 1, 1] ++ [wr 0x8D 0x15B79, wr 2 4, wr 3 32]) 0x22312000
    s.memRead 32 8 = 0b10110111 ∧ s.cur.csr = 0b110100 := by decide +kernel

/-- R236, R237: five bits into a block of 2 rows and 4 columns from cell 6 wrap around. -/
theorem test_ilvw :
    let s := after (wrb 0 [1, 0, 1, 1, 0] ++ [wr 0x8E 0x40002, wr 0x95 6, wr 2 5]) 0x23012000
    s.cur.istore = [(0, true), (1, true), (2, false), (6, true), (7, false)] ∧ s.cur.iwr = 3 := by
  decide +kernel

/-- R236, R238: with 2 rows and 4 columns, position `o` takes cell `(o mod 4)·2 + o div 4`. -/
theorem test_ilvr :
    let cells := [1, 0, 1, 1, 0, 0, 1, 0].zipIdx.map fun p => HostEvent.spaceWrite .istore p.2 p.1
    let s := after (cells ++ [wr 0x8E 0x40002, wr 1 16, wr 2 8]) 0x24102000
    s.memRead 16 8 = 0b11010100 ∧ s.cur.ird = 0 := by decide +kernel

/-- R240: the remainder and the encoder register are cleared. -/
theorem test_fecrst :
    let s := after [wr 0x97 0xABCDEF, wr 0x94 63] 0x03000000
    s.cur.crcr = 0 ∧ s.cur.csr = 0 := by decide +kernel

/-- V-SEQ-1: a time between two bits, and an overflow. -/
theorem test_t2b :
    (after [wr 0x43 1000, wr 0x88 250, wr 1 2001] 0x30210000).xint 2 = 501 ∧
      let s := after [wr 0x43 1, wr 0x88 4, wr 1 (-2305843009213693953)] 0x30210000
      s.xint 2 = 9223372036854775804 ∧ s.status = 0x10 := by decide +kernel

/-- The geometry of V-SEQ-2. -/
def geometry : List HostEvent := [wr 0x89 250, wr 0x8A 2, wr 0x8B 15, wr 0x8C 24]

/-- V-SEQ-2: the last row, an index of 2^64 − 1. -/
theorem test_seek :
    let s := after (geometry ++ [wr 1 (-1)]) 0x31010000
    (s.cur.sf, s.cur.pg, s.cur.pp, s.cur.boff) = (14, 13, 0, 115) := by decide +kernel

/-- V-SEQ-3: the last page part of the frame, and a page beyond the last. -/
theorem test_adv :
    let s := after (geometry ++ [wr 0x90 23, wr 0x91 14, wr 0x92 1, wr 0x93 249]) 0x32000000
    let t := after (geometry ++ [wr 0x90 2, wr 0x91 20, wr 0x92 1]) 0x32000000
    (s.cur.sf, s.cur.pg, s.cur.pp, s.cur.boff) = (0, 0, 0, 0) ∧
      (t.cur.sf, t.cur.pg, t.cur.pp) = (3, 0, 0) := by decide +kernel

/-- V-SEQ-4: the low byte in an even subframe, the high byte in an odd one; an almanac index. -/
theorem test_tables :
    (after [.spaceWrite .pft 6 0x6B07, wr 0x91 6, wr 0x90 4] 0x33100000).xval 1 = 7 ∧
      (after [.spaceWrite .pft 6 0x6B07, wr 0x91 6, wr 0x90 5] 0x33100000).xval 1 = 107 ∧
      (after [.spaceWrite .ait 63 18, wr 0x90 63] 0x34200000).xval 2 = 18 := by decide +kernel

/-- V-SEQ-5: an overlapping copy takes the old bits; a sum of 2^64 + 1 does not wrap. -/
theorem test_bcopy :
    (after (wrb 0 [1, 0, 1, 1, 0, 0, 1, 0] ++ [wr 1 2, wr 2 0, wr 3 6]) 0x35123000).memRead 0 8
        = 0b10101100 ∧
      (after [wr 1 0, wr 2 (-1), wr 3 2] 0x35123000).cur.fsr = 3 := by decide +kernel

/-- V-SEQ-6: the first row, and the row whose phase is 2^64 − 1. -/
theorem test_tile :
    let pattern := wrb 32 [1, 1, 0] ++ [wr 5 64, wr 6 32, wr 7 3]
    (after (pattern ++ [wr 8 7, wr 9 8]) 0x36567890).memRead 64 8 = 0b10110110 ∧
      (after (pattern ++ [wr 8 (-1), wr 9 4]) 0x36567890).memRead 64 4 = 0b1101 := by decide +kernel

/-- The catalog entry, the descriptor and the memories of V-MOD-1. -/
def modSetup : List HostEvent :=
  [wr 0x43 1000, .spaceWrite .scat 8 1, .spaceWrite .scat 9 0, .spaceWrite .scat 12 8,
    .spaceWrite .scat 13 16, wr 1 1, .cmd 0x02010000, wr 0xA0 1, wr 0xA2 1,
    .spaceWrite .cm 10 1, .spaceWrite .cm 11 (-1), .spaceWrite .cm 12 1, .spaceWrite .cm 13 1,
    wr 0xB0 10, wr 0xB1 4, wr 0xB2 200, wr 0xB3 2, wr 0xB4 1, wr 0xA4 300, wr 0xA6 2, wr 0xA7 1] ++
  wrb 200 [0, 1] ++ wrb 300 [1, 0]

/-- V-MOD-1: the first sixteen samples and sample 31. -/
theorem test_mod :
    let s := after (modSetup ++ [wr 4 32]) 0x40234000
    ((List.range 16).map fun j => (s.sample j).i.toInt)
        = [-1, -1, 1, 1, -1, -1, -1, -1, 1, 1, -1, -1, 1, 1, 1, 1] ∧
      s.sample 31 = { i := -1, q := 0 } ∧ s.lastst = 0 := by decide +kernel

/-- V-MOD-3, last case: sample 32 needs a bit outside the window; V-MOD-6: `NCOMP = 2`. -/
theorem test_mod_faults :
    (after (modSetup ++ [wr 4 33]) 0x40234000).lastst = 7 ∧
      (after (modSetup ++ [wr 4 33]) 0x40234000).sm = [] ∧
      (after (modSetup ++ [wr 4 32, wr 0xA2 2]) 0x40234000).lastst = 6 := by decide +kernel

/-- R266: 16·90/1000 rounded down. -/
theorem test_modofs : (after (modSetup ++ [wr 0x44 90]) 0x41500000).xval 5 = 1 := by decide +kernel

/-- V-ORB-1. -/
theorem test_kepler :
    let s := after [wr 0x29 (2 ^ 64), wr 0x21 0x8000000000000000] 0x50B24200
    s.qval 22 = 0x17FAAE0A2EFF21A3B ∧ s.kiter = 6 ∧ s.status = 0 := by decide +kernel

/-- The elements and constants of V-ORB-5, with the epochs in x5 and x4. -/
def orbit : List HostEvent :=
  [wr 0x38 0x130A43462BAF5FA725211CF, wr 0x39 0x4C769F5F2E356, wr 0x3A 0x11DE784A0000000000000000,
    wr 0x20 0x1540969478C868B9FDBD, wr 0x21 0xD1B71758E2196, wr 0x22 0xFA36E2EB1C432CA5,
    wr 0x23 0x6DF37F67, wr 0x24 0x13333333333333333, wr 0x25 (-0x179F505F36), wr 0x26 0xB333333333333333,
    wr 0x27 (-(2 * 2 ^ 64)), wr 0x28 0xCE288EE1D, wr 0x43 1000, wr 5 345600000, wr 4 346834500]

/-- V-ORB-5: X, VZ, EA, TK and the iterations. -/
theorem test_prop :
    let s := after orbit 0x51045000
    s.qval 16 = 0x1247CAC1312765D746743D0 ∧ s.qval 21 = 0x4E2A18FF401D9E2E506 ∧
      s.qval 22 = -0x1D8DE55A4B8FA877C ∧ s.qval 23 = 0x4D28000000000000000 ∧ s.kiter = 3 := by
  decide +kernel

/-- V-ORB-9. -/
theorem test_reldly : (after (orbit ++ [.cmd 0x51045000]) 0x52D80000).qval 27 = -0x23B1AC035A89F218 := by
  decide +kernel

/-- R296, R301: a faulted context refuses `ADV`, keeps its first record, executes `NOP`; `CTXCLR` ends it. -/
theorem test_faulted_context :
    let es := [HostEvent.cmd 0x30210000, .cmd 0x32000000, .cmd 0xFFFFFFFF, .cmd 0]
    (after es 0x32000000).responses = [.status 6, .status 8, .status 2, .status 0, .status 8] ∧
      (after es 0).cur.finfo = 0x30210000 ∧ (after es 0x01000000).cur.fsr = 0 := by decide +kernel

/-- R282: an entry that is not valid selects nothing. -/
theorem test_selsig :
    (after [.spaceWrite .scat 8 0, wr 1 1] 0x02010000).lastst = 1 ∧
      (after [.spaceWrite .scat 8 1, .spaceWrite .scat 9 2, wr 1 1] 0x02010000).cur.sigt = 1 := by
  decide +kernel

/-- R27, R28, R54: a context number out of range is ignored, `STATUS` is cleared by ones, a read-only
register ignores a write, a reserved bit reads 0. -/
theorem test_register_writes :
    (host [wr 0x41 2]).ctx = 0 ∧ (host [wr 0x41 1]).ctx = 1 ∧
      (after [wr 3 8, .cmd 0x10300002, wr 0x42 1] 0).status = 0 ∧ (host [wr 0x48 5]).kiter = 0 ∧
      (host [wr 0x8D 0x1FFFF]).cur.convcfg = 0x17F7F := by decide +kernel

/-- R121: a pattern of 12 bits and eighteen zero bits. -/
theorem test_pseudo :
    packb 0xB70 12 = [.cmd 0x11B00B70] ∧ packz 18 = [.cmd 0x11F00000, .cmd 0x11100000] := by decide

/-- The page transmission time of the part at stream bit 86 of program P2 (parts of 2 s, 1000 ticks a second). -/
theorem test_pageTime : pageTime 86 1000 43 = 2000 := by decide +kernel

/-- R8: the word presented by `withFetchWord` is the one the next step executes. -/
theorem test_fetch :
    step (State.reset.withFetchWord 32 0x32000000) =
      .next { State.reset.enterFault .config 0x32000000 with responses := [.status 6] } := by rfl

/-! Witnesses: for every statement with hypotheses, states and operands that meet them, for each clause
and at the ends of its range. The sizes are those of `Config.params`: 2 contexts, 8192 bits, 4096 words,
4096 samples, 8 signals. -/

/-- A state whose current context holds a record. -/
def recorded : State := after [] 0x32000000

theorem witness_DecodeEncodeAgree :
    (Instr.packi 15 0xFFFF).wellFormed = true ∧ (Instr.packi 0 1).wellFormed = true ∧
      (Instr.conv 1 2 3 true).wellFormed = true := by decide

theorem witness_EncodeDecodeAgree :
    decode 0x11F0FFFF = .ok (.packi 15 0xFFFF) ∧ decode 0x22123001 = .ok (.conv 1 2 3 true) := by decide

theorem witness_LegalWordsExactly :
    let row : OpcodeRow := ⟨"PACKI", 0x11000000, 0xFF0F0000⟩
    row ∈ opcodeTable ∧ (0x11100003 : Word) &&& row.mask = row.bits ∧
      (0x11100004 : Word) &&& row.mask = row.bits ∧ ¬ (4 < 2 ^ (1 + 1)) := by decide

theorem witness_StepRunsDecoded :
    let s := State.reset.withFetchWord 32 0x11100003
    s.pending = [.cmd 0x11100003] ∧ decode 0x11100003 = .ok (.packi 1 3) := by decide

theorem witness_IllegalCommand :
    (State.reset.withFetchWord 32 0x11100004).pending = [.cmd 0x11100004] ∧
      ∀ i, decode 0x11100004 ≠ .ok i := by
  refine ⟨rfl, fun i h => ?_⟩
  rw [show decode 0x11100004 = .error (.packiValueTooWide 1 4) by decide] at h
  cases h

theorem witness_StepOfOtherTransactions :
    State.reset.pending = [] ∧ Reg.ofNumber 0x0CC = some (.ds 3) ∧ Reg.ofNumber 0 = some (.x 0) ∧
      8191 < Params.size State.reset.params .bm ∧ 61 < Params.size State.reset.params .scat ∧
      61 % 8 < 6 ∧ ({ State.reset with pending := [wr 0x0CC 1] }).pending = [.regWrite 0x0CC 1] := by decide

theorem witness_RegWriteReads :
    Reg.readOnly .finfo = true ∧ Reg.readOnly .ilvcfg = false ∧ State.reset.params.nctx ≤ 2 := by decide

theorem witness_StatusAndCtxWrites :
    1 < State.reset.params.nctx ∧ ¬ 2 < State.reset.params.nctx := by decide

theorem witness_UndefinedTransactionsRefused :
    numberListed 0x04A ∧ ¬ numberListed 0x04B ∧ numberListed 0x0CC ∧ ¬ numberListed 0x0CD ∧
      ¬ numberListed 0x085 ∧ Params.size State.reset.params .qt = 32 ∧
      Params.size State.reset.params .scat = 64 := by
  unfold numberListed
  exact ⟨by decide, by decide, by decide, by decide, by decide, by decide, by decide⟩

theorem witness_SpaceWriteReads :
    (Space.cm ≠ .bm ∨ 5 ≠ 5) ∧ (Space.bm ≠ .bm ∨ 5 ≠ 6) := by decide

theorem witness_ResetValues : Reg.status ≠ .ctx ∧ Reg.id ≠ .ctx ∧ Reg.splen ≠ .ctx := by decide

theorem witness_ResetWf :
    Params.Legal { nctx := 1, bmBits := 4096, cmWords := 1, smSamples := 1, nsig := 1 } ∧
      Params.Legal { nctx := 70000, bmBits := 2 ^ 32, cmWords := 2 ^ 32, smSamples := 2 ^ 32, nsig := 65536 } := by
  decide

/-- The reset state with a command to come satisfies the invariant and steps to a next state. -/
theorem witness_StepKeepsWf :
    (State.reset.withFetchWord 32 0x32000000).wf ∧
      step (State.reset.withFetchWord 32 0x32000000) =
        .next { State.reset.enterFault .config 0x32000000 with responses := [.status 6] } := by
  exact ⟨by decide +kernel, test_fetch⟩

theorem witness_FaultsArePrecise :
    present 0x32000000 State.reset = .next recorded ∧ recorded.lastst = 6 ∧
      present 0x11100004 State.reset = .next (after [] 0x11100004) ∧ (after [] 0x11100004).lastst = 2 :=
  ⟨rfl, rfl, rfl, rfl⟩

theorem witness_FaultedContextRefuses :
    recorded.cur.fsr ≠ 0 ∧ exempt .adv = false ∧ exempt .ctxclr = true ∧ State.reset.cur.fsr = 0 := by
  decide +kernel

theorem witness_ConfigCauses :
    (host modSetup).cur.fsr = 0 ∧ ¬ signalUnsupported (host modSetup) := by decide +kernel

theorem witness_BmRangeCauses :
    let s := host [wr 0x8E 0x07FF0001, wr 0x47 64, wr 0x84 8192, wr 2 1]
    let t := host [wr 0x8E 0x80010001]
    s.cur.fsr = 0 ∧ 1 ≤ s.splen.toNat ∧ s.splen.toNat ≤ 64 ∧ ¬ interleaverIllegal s.cur ∧ s.xreg 2 ≠ 0 ∧
      t.cur.fsr = 0 ∧ 1 ≤ t.splen.toNat ∧ ¬ interleaverIllegal t.cur := by decide +kernel

/-- One state for each clause of `ModChecksInOrder`, NS = 32 samples at 0. -/
theorem witness_ModChecksInOrder :
    let s := host (modSetup ++ [wr 4 32])
    (s.cur.fsr = 0 ∧ ¬ signalUnsupported s ∧ ¬ modConfigIllegal s ∧ ¬ modBmOutside s ∧ ¬ modCmOutside s) ∧
      s.xval 2 + s.xval 4 ≤ s.params.smSamples ∧ ¬ modBitOutside s (s.xint 3) (s.xval 4) := by
  decide +kernel

theorem witness_ModChecksInOrder_faults :
    let hz := host (modSetup ++ [wr 0x43 0])
    let nb := host (modSetup ++ [wr 0xA4 8191])
    let cb := host (modSetup ++ [wr 0xB0 4093])
    let sm := host (modSetup ++ [wr 4 32, wr 2 4065])
    let bits := host (modSetup ++ [wr 4 33])
    signalUnsupported State.reset ∧ (¬ signalUnsupported hz ∧ modConfigIllegal hz) ∧
      (¬ modConfigIllegal nb ∧ modBmOutside nb) ∧ (¬ modBmOutside cb ∧ modCmOutside cb) ∧
      (¬ modCmOutside sm ∧ sm.params.smSamples < sm.xval 2 + sm.xval 4) ∧
      (bits.xval 2 + bits.xval 4 ≤ bits.params.smSamples ∧
        modBitOutside bits (bits.xint 3) (bits.xval 4)) := by
  refine ⟨?_, ?_, ?_, ?_, ?_, ?_⟩ <;> decide +kernel

theorem witness_ContextIsolation :
    Memory.get? [(0, Context.reset)] State.reset.ctx.toNat = State.reset.banks.get? State.reset.ctx.toNat := by
  decide

theorem witness_RegisterWriters :
    exec (.modofs 5) (host modSetup) = .next ((host modSetup).runCommand 0x41500000 (modofsBody 5)) ∧
      xDest (.modofs 5) ≠ some 4 ∧ (0 : QReg) ∉ qDests (.prop 1 2) ∧ writesKiter (.modofs 5) = false ∧
      Instr.modofs 5 ≠ .ctxclr ∧ ((host modSetup).runCommand 0x41500000 (modofsBody 5)).lastst = 0 ∧
      exec .adv recorded = .next { recorded with lastst := 8 } ∧ recorded.cur.fsr ≠ 0 :=
  ⟨rfl, by decide, by decide, rfl, by decide, by decide +kernel, rfl, by decide +kernel⟩

theorem witness_SpaceWriters :
    writesBm .adv = false ∧ writesSm .adv = false ∧ writesIstore .adv = false ∧
      exec .adv State.reset = .next (State.reset.runCommand 0x32000000 advBody) :=
  ⟨rfl, rfl, rfl, rfl⟩

theorem witness_ClearingCommands : State.reset.cur.fsr = 0 ∧ recorded.cur.fsr ≠ 0 := by decide +kernel

theorem witness_SelsigResult :
    let s := host [.spaceWrite .scat 56 1, .spaceWrite .scat 57 2, .spaceWrite .scat 0 1,
      .spaceWrite .scat 1 3, .spaceWrite .scat 8 0, wr 1 7, wr 2 8, wr 3 0, wr 4 1]
    s.cur.fsr = 0 ∧ s.xval 1 < s.params.nsig ∧ (s.catalog (s.xval 1)).valid = true ∧
      (s.catalog (s.xval 1)).scheme ≠ 3 ∧ s.params.nsig ≤ s.xval 2 ∧
      (s.catalog (s.xval 3)).scheme = 3 ∧ (s.catalog (s.xval 4)).valid = false := by decide +kernel

theorem witness_PackResult :
    let s := host [wr 0x84 8192]
    let t := host [wr 0x84 8128]
    s.cur.fsr = 0 ∧ s.params.bmBits < s.cur.wp.toNat + 1 ∧
      t.cur.fsr = 0 ∧ t.cur.wp.toNat + 64 ≤ t.params.bmBits := by decide +kernel

theorem witness_PackiResult :
    let s := host [wr 0x84 8177]
    let t := host [wr 0x84 8176]
    s.cur.fsr = 0 ∧ s.params.bmBits < s.cur.wp.toNat + 16 ∧
      t.cur.fsr = 0 ∧ t.cur.wp.toNat + 16 ≤ t.params.bmBits := by decide +kernel

theorem witness_PackspResult :
    let s := fun len wp => host [wr 0x47 len, wr 0x84 wp]
    (s 0 0).splen.toNat < 1 ∧ 64 < (s 65 0).splen.toNat ∧ (s 64 8192).splen.toNat = 64 ∧
      (s 64 8192).params.bmBits < (s 64 8192).cur.wp.toNat + 1 ∧ (s 1 8187).splen.toNat = 1 ∧
      (s 1 8187).cur.wp.toNat + 5 ≤ (s 1 8187).params.bmBits ∧ (s 1 8187).cur.fsr = 0 := by decide +kernel

theorem witness_QscaleResult : State.reset.cur.fsr = 0 := by decide

/-- Below the table, in a segment, in the gap, above the last segment, and tables that are not legal. -/
theorem witness_PwlqResult :
    let s := host (segments ++ [wr 1 4, wr 2 14, wr 3 15, wr 4 25])
    (s.cur.fsr = 0 ∧ ¬ quantiserIllegal s) ∧ (s.xval 1 < (s.segment 0).lo ∧ s.xval 1 < (s.segment 1).lo) ∧
      ((s.segment 0).lo ≤ s.xval 2 ∧ s.xval 2 < (s.segment 1).lo ∧ s.xval 2 - (s.segment 0).lo = 9 ∧
        9 < (s.segment 0).cnt) ∧
      ((s.segment 0).lo ≤ s.xval 3 ∧ s.xval 3 < (s.segment 1).lo ∧ s.xval 3 - (s.segment 0).lo = 10 ∧
        (s.segment 0).cnt ≤ 10) ∧
      ((s.segment 1).lo ≤ s.xval 4 ∧ s.xval 4 - (s.segment 1).lo = 5 ∧ (s.segment 1).cnt ≤ 5) ∧
      quantiserIllegal (host (segments ++ [wr 0x4A 9])) ∧
      quantiserIllegal (host (segments ++ [.spaceWrite .qt 5 0])) := by decide +kernel

theorem witness_Crc24Result :
    let s := host [wr 1 8190, wr 2 3, wr 3 2]
    s.cur.fsr = 0 ∧ s.params.bmBits < s.xval 1 + s.xval 2 ∧ s.xval 1 + s.xval 3 ≤ s.params.bmBits := by
  decide +kernel

theorem witness_CrcputResult :
    let s := host [wr 0x84 8169]
    let t := host [wr 0x84 8168]
    s.cur.fsr = 0 ∧ s.params.bmBits < s.cur.wp.toNat + 24 ∧ t.cur.fsr = 0 ∧
      t.cur.wp.toNat + 24 ≤ t.params.bmBits := by decide +kernel

theorem witness_ConvResult :
    let s := host [wr 1 0, wr 2 5, wr 3 8182, wr 4 8183, wr 5 8188]
    s.cur.fsr = 0 ∧ s.xval 1 + s.xval 2 ≤ s.params.bmBits ∧ s.xval 3 + 2 * s.xval 2 ≤ s.params.bmBits ∧
      s.params.bmBits < s.xval 4 + 2 * s.xval 2 ∧ s.params.bmBits < s.xval 5 + s.xval 2 := by
  decide +kernel

theorem witness_IlvwResult :
    let s := host [wr 0x8E 0x07FF0001, wr 1 8190, wr 2 3, wr 3 2]
    s.cur.fsr = 0 ∧ ¬ interleaverIllegal s.cur ∧ s.params.bmBits < s.xval 1 + s.xval 2 ∧
      s.xval 1 + s.xval 3 ≤ s.params.bmBits ∧ interleaverIllegal State.reset.cur := by decide +kernel

theorem witness_IlvrResult :
    let s := host [wr 0x8E 0x80020004, wr 0x96 7, wr 1 8190, wr 2 3, wr 3 2]
    s.cur.fsr = 0 ∧ ¬ interleaverIllegal s.cur ∧ s.params.bmBits < s.xval 1 + s.xval 2 ∧
      s.xval 1 + s.xval 3 ≤ s.params.bmBits ∧
      interleaverIllegal (host [wr 0x8E 0x80020004, wr 0x96 8]).cur := by decide +kernel

theorem witness_T2bResult :
    let s := fun hz br => host [wr 0x43 hz, wr 0x88 br]
    (s 1000 250).cur.fsr = 0 ∧ ¬ tickIllegal (s (2 ^ 63 - 1) 1) ∧ (s (2 ^ 63 - 1) 1).cur.br ≠ 0 ∧
      tickIllegal (s (2 ^ 63) 1) ∧ tickIllegal (s 0 1) ∧ (s 1000 0).cur.br = 0 := by decide +kernel

theorem witness_CursorResult :
    let s := host [wr 0x89 1, wr 0x8A 2, wr 0x8B 64, wr 0x8C 64]
    let t := host [wr 0x89 1, wr 0x8A 1, wr 0x8B 1, wr 0x8C 65]
    s.cur.fsr = 0 ∧ s.cur.ppb ≠ 0 ∧ ¬ geometryIllegal s.cur ∧ geometryIllegal t.cur ∧
      State.reset.cur.ppb = 0 := by decide +kernel

theorem witness_TableLookups : State.reset.cur.fsr = 0 := by decide

theorem witness_BcopyResult :
    let s := host [wr 1 8192, wr 2 8193, wr 3 0]
    s.cur.fsr = 0 ∧ s.params.bmBits < s.xval 2 + s.xval 3 ∧ s.xval 1 + s.xval 3 ≤ s.params.bmBits := by
  decide +kernel

theorem witness_TileResult :
    let s := host [wr 1 8190, wr 2 2, wr 3 3, wr 4 0]
    s.cur.fsr = 0 ∧ s.xval 4 = 0 ∧ s.xval 2 ≠ 0 ∧ s.xval 1 + s.xval 2 ≤ s.params.bmBits ∧
      s.params.bmBits < s.xval 1 + s.xval 3 := by decide +kernel

/-- The hypotheses of `ModResult` (NS = 32 from sample 4064 on). -/
theorem witness_ModResult :
    let s := host (modSetup ++ [wr 2 4064, wr 4 32])
    s.cur.fsr = 0 ∧ ¬ signalUnsupported s ∧ ¬ modConfigIllegal s ∧ ¬ modBmOutside s ∧ ¬ modCmOutside s ∧
      s.xval 2 + s.xval 4 ≤ s.params.smSamples ∧ ¬ modBitOutside s (s.xint 3) (s.xval 4) := by
  decide +kernel

theorem witness_ModofsResult :
    let s := host modSetup
    s.cur.fsr = 0 ∧ ¬ signalUnsupported s ∧ ¬ tickIllegal s ∧ signalUnsupported State.reset ∧
      ¬ signalUnsupported (host (modSetup ++ [wr 0x43 0])) ∧
      tickIllegal (host (modSetup ++ [wr 0x43 0])) := by decide +kernel

theorem witness_KeplerResult :
    legalEcc ((host [wr 0x21 0]).qval 1) ∧ legalEcc ((host [wr 0x21 (2 ^ 64 - 1)]).qval 1) := by
  decide +kernel

theorem witness_PropResult :
    legalEcc ((host orbit).qval 1) ∧ ((0 : QReg).toNat < 16 ∨ 23 < (0 : QReg).toNat) ∧
      ((24 : QReg).toNat < 16 ∨ 23 < (24 : QReg).toNat) := by decide +kernel

theorem witness_ReldlyResult : legalEcc ((host orbit).qval 1) := by decide +kernel

/-- Two states that agree where `PropIndependent` asks and differ in `STATUS` and `CTX`. -/
theorem witness_PropIndependent :
    let s := host orbit
    let u := host (orbit ++ [.cmd 0x32000000, wr 0x41 1])
    legalEcc (s.qval 1) ∧ s.xreg 4 = u.xreg 4 ∧ s.xreg 5 = u.xreg 5 ∧
      (∀ r : QReg, r.toNat ≤ 8 ∨ r = 24 ∨ r = 25 → s.qval r = u.qval r) ∧ s.tickHz = u.tickHz ∧
      s.ctx ≠ u.ctx := by decide +kernel

theorem witness_SquareRoot :
    (0 : Int) ≤ 2 ^ 127 - 1 ∧ (2 ^ 127 - 1 : Int) < 2 ^ 127 ∧ (-1 : Int) < 0 ∧ (-1 : Int) < 2 ^ 127 := by
  decide

theorem witness_KeplerCornerCases : legalEcc 0 ∧ legalEcc 0xFFFFFFFFFFFFFFFF := by decide

theorem witness_SeekThenAdvance :
    let s := host (geometry ++ [wr 1 7625, wr 2 7875])
    s.cur.fsr = 0 ∧ s.cur.ppb ≠ 0 ∧ ¬ geometryIllegal s.cur ∧
      s.xval 2 = s.xval 1 + s.cur.ppb.toNat := by decide +kernel

theorem witness_InterleaverPermutation : (0 : Nat) < 1 * 1 ∧ (239 : Nat) < 8 * 30 := by decide

theorem witness_InterleaverBlock :
    let s := host [wr 0x8E 0x40002, wr 1 8184, wr 2 8, wr 3 8184]
    s.cur.fsr = 0 ∧ ¬ interleaverIllegal s.cur ∧ s.cur.iwr = 0 ∧ s.cur.ird = 0 ∧
      s.xval 2 = ilvSize s.cur.ilvcfg ∧ s.xval 1 + s.xval 2 ≤ s.params.bmBits ∧
      s.xval 3 + s.xval 2 ≤ s.params.bmBits := by decide +kernel

theorem witness_SliceBitsPartition :
    (0 : Nat) < 1 ∧ (0 : Int) * 1 ≤ 0 * 1 ∧ (0 : Int) * 1 < 1 * 1 := by decide

/-- `QSCALE x3, q9, 0` of 1.5 gives 2, which `PACK.S x3, 3` packs without a flag. -/
theorem witness_QscaleRoundTrip :
    let s := host [wr 0x29 0x18000000000000000]
    let t := s.runCommand (encode (.qscale 3 9 0 false)) (qscaleBody 3 9 0 false)
    let u := t.runCommand (encode (.pack 3 true 2)) (packBody 3 true 2)
    s.cur.fsr = 0 ∧ exec (.qscale 3 9 0 false) s = .next t ∧ exec (.pack 3 true 2) t = .next u ∧
      u.lastst = 0 ∧ u.status.getLsbD 0 = false ∧ u.memRead 0 3 = 2 := by
  refine ⟨by decide +kernel, rfl, rfl, by decide +kernel, by decide +kernel, by decide +kernel⟩

theorem witness_FixedPointPrimitives : (0 : Int) = 0 ∧ (1 : Int) ≠ 0 := by decide

theorem witness_KeplerIteration : legalEcc 0 ∧ legalEcc (2 ^ 64 - 1) := by decide

end Sys2Proof.Tests
end

/-! What a command can do to the state: it is made of a few kinds of edits, each within the bounds of the
state it is made in. The invariant and the frame of the host's side are read off the edits. -/

namespace Sys2Proof.Machine

/-! ### Contexts -/

theorem Context.wf_reset (p : Params) : Context.wf p Context.reset :=
  ⟨rfl, rfl, by decide, fun _ => rfl, fun h => absurd h (by decide), fun _ => rfl,
    Memory.wf_nil _, Memory.wf_nil _, Memory.wf_nil _⟩

theorem Context.wf.setStream {p : Params} {c : Context} (h : Context.wf p c) (n : StreamName)
    (v : NavStream) : Context.wf p (c.setStream n v) := by
  cases n <;> exact h

/-- Going one page part on touches nothing the invariant speaks of. -/
theorem Context.wf.advance {p : Params} {c : Context} (h : Context.wf p c) :
    Context.wf p c.advance := by
  unfold Context.advance
  split
  · exact h
  · split
    · exact h
    · split <;> exact h

/-- A fault record of any cause is one the invariant allows (R295). -/
theorem Context.wf.record {p : Params} {c : Context} (h : Context.wf p c) (f : Cause) (w : Word) :
    Context.wf p { c with fsr := f.code, finfo := w } := by
  obtain ⟨hconv, hilv, _, _, hsig⟩ := h
  exact ⟨hconv, hilv, f.code_range.2, fun h0 => absurd h0 f.code_ne.1, hsig⟩

theorem Context.wf.clearRecord {p : Params} {c : Context} (h : Context.wf p c) :
    Context.wf p { c with fsr := 0, finfo := 0 } := by
  obtain ⟨hconv, hilv, _, _, hsig⟩ := h
  exact ⟨hconv, hilv, by simp, fun _ => rfl, hsig⟩

theorem Context.wf.clearSignal {p : Params} {c : Context} (h : Context.wf p c) :
    Context.wf p { c with sigt := 0, sigv := 0 } := by
  obtain ⟨hconv, hilv, hfsr, hfinfo, _, _, hmem⟩ := h
  have hne : (0 : BitVec 1) ≠ 1 := by decide
  exact ⟨hconv, hilv, hfsr, hfinfo, fun h1 => absurd h1 hne, fun _ => rfl, hmem⟩

/-- Selecting a signal of the catalog (R282). -/
theorem Context.wf.select {p : Params} {c : Context} (h : Context.wf p c) {n : Nat}
    (hn : n < p.nsig) : Context.wf p { c with sigt := BitVec.ofNat 16 n, sigv := 1 } := by
  obtain ⟨hconv, hilv, hfsr, hfinfo, _, _, hmem⟩ := h
  have hne : (1 : BitVec 1) ≠ 0 := by decide
  refine ⟨hconv, hilv, hfsr, hfinfo, fun _ => ?_, fun h0 => absurd h0 hne, hmem⟩
  exact Nat.lt_of_le_of_lt (by simpa using Nat.mod_le n 65536) hn

theorem Context.wf.setIstore {p : Params} {c : Context} (h : Context.wf p c) {m : Memory Bool}
    (hm : Memory.wf Config.ilvMax m) : Context.wf p { c with istore := m } := by
  obtain ⟨hconv, hilv, hfsr, hfinfo, hsig, hnone, _, htables⟩ := h
  exact ⟨hconv, hilv, hfsr, hfinfo, hsig, hnone, hm, htables⟩

theorem Context.wf.setPft {p : Params} {c : Context} (h : Context.wf p c)
    {m : Memory (BitVec 16)} (hm : Memory.wf Config.pftSlots m) :
    Context.wf p { c with pft := m } := by
  obtain ⟨hconv, hilv, hfsr, hfinfo, hsig, hnone, histore, _, hait⟩ := h
  exact ⟨hconv, hilv, hfsr, hfinfo, hsig, hnone, histore, hm, hait⟩

theorem Context.wf.setAit {p : Params} {c : Context} (h : Context.wf p c)
    {m : Memory (BitVec 8)} (hm : Memory.wf Config.aitSlots m) :
    Context.wf p { c with ait := m } := by
  obtain ⟨hconv, hilv, hfsr, hfinfo, hsig, hnone, histore, hpft, _⟩ := h
  exact ⟨hconv, hilv, hfsr, hfinfo, hsig, hnone, histore, hpft, hm⟩

/-- A value cut down by a mask has none of the bits outside the mask. -/
theorem and_and_not_self {n : Nat} (v m : BitVec n) : v &&& m &&& ~~~m = 0 := by
  rw [BitVec.and_assoc, BitVec.and_not_self]
  exact BitVec.and_zero

theorem Context.wf.setConvcfg {p : Params} {c : Context} (h : Context.wf p c) (v : BitVec 17) :
    Context.wf p { c with convcfg := v &&& convcfgMask } :=
  ⟨and_and_not_self v convcfgMask, h.2⟩

theorem Context.wf.setIlvcfg {p : Params} {c : Context} (h : Context.wf p c) (v : BitVec 32) :
    Context.wf p { c with ilvcfg := v &&& ilvcfgMask } := by
  obtain ⟨hconv, _, hrest⟩ := h
  exact ⟨hconv, and_and_not_self v ilvcfgMask, hrest⟩

/-! ### The invariant and the updates of the state -/

theorem Memory.mem_of_get? {α : Type} {m : Memory α} {a : Nat} {v : α} (h : m.get? a = some v) :
    (a, v) ∈ m := by
  obtain ⟨c, hc, rfl⟩ := Option.map_eq_some_iff.1 h
  have hkey : c.1 = a := by simpa using List.find?_some hc
  exact hkey ▸ List.mem_of_find?_eq_some hc

theorem State.wf.cur {s : State} (h : s.wf) : Context.wf s.params s.cur := by
  obtain ⟨_, _, ⟨_, hbanks⟩, _⟩ := h
  unfold State.cur State.bank
  cases hc : s.banks.get? s.ctx.toNat with
  | none => exact Context.wf_reset s.params
  | some c => exact hbanks _ (Memory.mem_of_get? hc)

theorem State.wf.setCur {s : State} (h : s.wf) {c : Context} (hc : Context.wf s.params c) :
    (s.setCur c).wf := by
  obtain ⟨hparams, hctx, ⟨hkeys, hbanks⟩, hrest⟩ := h
  refine ⟨hparams, hctx, ⟨Memory.keys_put_range c hkeys hctx, fun d hd => ?_⟩, hrest⟩
  rcases Memory.mem_put hd with hd | rfl
  · exact hbanks d hd
  · exact hc

theorem State.wf.setStatus {s : State} (h : s.wf) {st : BitVec 8} (hst : st.toNat < 64) :
    (s.setStatus st).wf := by
  obtain ⟨hparams, hctx, hbanks, _, hrest⟩ := h
  exact ⟨hparams, hctx, hbanks, hst, hrest⟩

theorem State.wf.setLastst {s : State} (h : s.wf) {c : BitVec 8} (hc : c.toNat ≤ 8) :
    (s.setLastst c).wf := by
  obtain ⟨hparams, hctx, hbanks, hstatus, _, hrest⟩ := h
  exact ⟨hparams, hctx, hbanks, hstatus, hc, hrest⟩

theorem State.wf.setKiter {s : State} (h : s.wf) {it : Nat} (hit : it ≤ Config.maxit) :
    (s.setKiter it).wf := by
  obtain ⟨hparams, hctx, hbanks, hstatus, hlastst, _, hrest⟩ := h
  refine ⟨hparams, hctx, hbanks, hstatus, hlastst, ?_, hrest⟩
  exact Nat.le_trans (by simpa using Nat.mod_le it 256) hit

theorem State.wf.writeBits {s : State} (h : s.wf) {a : Nat} {bs : List Bool}
    (hfit : a + bs.length ≤ s.params.bmBits) : (s.writeBits a bs).wf := by
  obtain ⟨hparams, hctx, hbanks, hstatus, hlastst, hkiter, hbm, hrest⟩ := h
  exact ⟨hparams, hctx, hbanks, hstatus, hlastst, hkiter, Memory.wf_writeRange hbm a bs hfit, hrest⟩

theorem State.wf.writeSamples {s : State} (h : s.wf) {a : Nat} {vs : List Sample}
    (hfit : a + vs.length ≤ s.params.smSamples) : (s.writeSamples a vs).wf := by
  obtain ⟨hparams, hctx, hbanks, hstatus, hlastst, hkiter, hbm, hcm, hsm, hrest⟩ := h
  exact ⟨hparams, hctx, hbanks, hstatus, hlastst, hkiter, hbm, hcm,
    Memory.wf_writeRange hsm a vs hfit, hrest⟩

/-! ### Edits -/

/-- One of the updates the commands are made of, within the bounds of the state it is made in. -/
inductive Edit : State → State → Prop
  | xreg (s : State) (r : XReg) (v : Int) : Edit s (s.setX r v)
  | qreg (s : State) (r : QReg) (v : Int) : Edit s (s.setQ r v)
  | flags (s : State) (d : List Flag) : Edit s (s.setStatus (addFlags d s.status))
  | kiter (s : State) (it : Nat) (h : it ≤ Config.maxit) : Edit s (s.setKiter it)
  | lastst (s : State) (c : BitVec 8) (h : c.toNat ≤ 8) : Edit s (s.setLastst c)
  | context (s : State) (c : Context) (h : Context.wf s.params s.cur → Context.wf s.params c) :
      Edit s (s.setCur c)
  | bits (s : State) (a : Nat) (bs : List Bool) (h : a + bs.length ≤ s.params.bmBits) :
      Edit s (s.writeBits a bs)
  | samples (s : State) (a : Nat) (vs : List Sample) (h : a + vs.length ≤ s.params.smSamples) :
      Edit s (s.writeSamples a vs)

/-- A run of edits. -/
abbrev Edits : State → State → Prop := Relation.ReflTransGen Edit

theorem Edit.wf {s t : State} (e : Edit s t) (h : s.wf) : t.wf := by
  cases e with
  | xreg r v => exact h
  | qreg r v => exact h
  | flags d =>
    obtain ⟨_, _, _, hstatus, _⟩ := id h
    exact h.setStatus (addFlags_toNat_lt d s.status hstatus)
  | kiter it hit => exact h.setKiter hit
  | lastst c hc => exact h.setLastst hc
  | context c hc => exact h.setCur (hc h.cur)
  | bits a bs hfit => exact h.writeBits hfit
  | samples a vs hfit => exact h.writeSamples hfit

theorem Edits.wf {s t : State} (e : Edits s t) (h : s.wf) : t.wf := by
  induction e with
  | refl => exact h
  | tail _ e ih => exact e.wf ih

/-- No edit reaches the host's side of the state. -/
theorem Edit.hostSide {s t : State} (e : Edit s t) :
    t.pending = s.pending ∧ t.responses = s.responses := by
  cases e <;> exact ⟨rfl, rfl⟩

theorem Edits.hostSide {s t : State} (e : Edits s t) :
    t.pending = s.pending ∧ t.responses = s.responses := by
  induction e with
  | refl => exact ⟨rfl, rfl⟩
  | tail _ e ih =>
    obtain ⟨hpending, hresponses⟩ := e.hostSide
    exact ⟨hpending.trans ih.1, hresponses.trans ih.2⟩

theorem edits_flagIf (s : State) (f : Flag) (c : Bool) : Edits s (s.flagIf f c) := by
  cases c with
  | false => exact .single (.flags s [])
  | true => exact .single (.flags s [f])

/-- A computation of the fixed-point primitives leaves flags added to `STATUS`. -/
theorem Uniform.edits {α : Type} {fs : List Flag} {m : FxM α} (h : Uniform fs m) (s : State) :
    Edits s (s.setStatus (m.run s.status).2) := by
  obtain ⟨d, _, hrun⟩ := h.run_eq
  rw [hrun s.status s.status]
  exact .single (.flags s d)

theorem edits_advanceWp (s : State) (w : Nat) : Edits s (s.advanceWp w) :=
  .single (.context s _ fun h => h)

theorem edits_clearFec (s : State) : Edits s s.clearFec := .single (.context s _ fun h => h)

theorem edits_clearSignal (s : State) : Edits s s.clearSignal :=
  .single (.context s _ Context.wf.clearSignal)

theorem edits_clearFault (s : State) : Edits s s.clearFault :=
  .single (.context s _ Context.wf.clearRecord)

theorem edits_storeOrbit (s : State) (o : OrbitState) (h : o.it ≤ Config.maxit) :
    Edits s (s.storeOrbit o) := by
  unfold State.storeOrbit
  refine .tail ?_ (.kiter _ _ h)
  iterate 8 refine .tail ?_ (.qreg _ _ _)
  exact .refl

/-! ### The shared operations of the commands -/

theorem edits_enterFault (s : State) (c : Cause) (w : Word) : Edits s (s.enterFault c w) := by
  have hcode : c.code.toNat ≤ 8 := Nat.le_succ_of_le c.code_range.2
  unfold State.enterFault
  split
  · exact .single (.lastst _ _ hcode)
  · exact .head (.context s _ fun h => h.record c w) (.single (.lastst _ _ hcode))

theorem edits_runCommand {s : State} {w : Word} {body : State → Except Cause State}
    (h : ∀ t, body s = .ok t → Edits s t) : Edits s (s.runCommand w body) := by
  rcases s.runCommand_cases w body with ⟨_, hr⟩ | ⟨_, c, _, hr⟩ | ⟨_, t, ht, hr⟩
  · rw [hr]; exact .single (.lastst s 8 (by decide))
  · rw [hr]; exact edits_enterFault s c w
  · rw [hr]; exact (h t ht).tail (.lastst t 0 (by decide))

theorem edits_runExempt {s : State} {body : State → State} (h : Edits s (body s)) :
    Edits s (s.runExempt body) :=
  h.tail (.lastst _ 0 (by decide))

/-- A check that raises a fault when it holds lets a command on exactly when it fails. -/
theorem check_eq_ok {c : Prop} [Decidable c] {e : Cause} {r : Except Cause State} {t : State} :
    (if c then .error e else r) = .ok t ↔ ¬ c ∧ r = .ok t := by
  by_cases h : c <;> simp [h]

/-- A range check lets a command on exactly when it holds. -/
theorem range_eq_ok {c : Prop} [Decidable c] {e : Cause} {r : Except Cause State} {t : State} :
    (if c then r else .error e) = .ok t ↔ c ∧ r = .ok t := by
  by_cases h : c <;> simp [h]

/-! ### The bodies of the commands -/

section
variable {s t : State}

theorem edits_layBits {bs : List Bool} (h : s.cur.wp.toNat + bs.length ≤ s.params.bmBits)
    (w : Nat) : Edits s ((s.writeBits s.cur.wp.toNat bs).advanceWp w) :=
  .head (.bits s _ bs h) (edits_advanceWp _ w)

theorem edits_packField {w v : Nat} (h : packField w v s = .ok t) : Edits s t := by
  rw [packField, range_eq_ok, inRange_iff, Except.ok.injEq] at h
  obtain ⟨hfit, rfl⟩ := h
  exact edits_layBits (by simpa using hfit) w

theorem edits_packBody {ra : XReg} {signed : Bool} {wm1 : BitVec 6}
    (h : packBody ra signed wm1 s = .ok t) : Edits s t :=
  (edits_flagIf s _ _).trans (edits_packField h)

theorem edits_packspBody {w : Nat} (h : packspBody w s = .ok t) : Edits s t := by
  rw [packspBody, check_eq_ok, range_eq_ok, inRange_iff, Except.ok.injEq] at h
  obtain ⟨_, hfit, rfl⟩ := h
  exact edits_layBits (by simpa using hfit) w

theorem uniform_scaleOperand (v : Int) (sc : Bool) :
    Uniform [.qovf, .divz] (scaleOperand v sc) := by
  cases sc with
  | false => exact (yields_pure _ v).uniform
  | true => exact (yields_fxDiv v Config.piQ).uniform

theorem edits_qscaleBody {rd : XReg} {qa : QReg} {k : BitVec 7} {sc : Bool}
    (h : qscaleBody rd qa k sc s = .ok t) : Edits s t := by
  rw [qscaleBody, Except.ok.injEq] at h
  subst h
  exact (((uniform_scaleOperand _ sc).edits s).trans (edits_flagIf _ _ _)).tail (.xreg _ _ _)

theorem edits_pwlqBody {rd ra : XReg} {up : Bool} (h : pwlqBody rd ra up s = .ok t) :
    Edits s t := by
  rw [pwlqBody, check_eq_ok, check_eq_ok, Except.ok.injEq] at h
  obtain ⟨_, _, rfl⟩ := h
  exact (edits_flagIf s _ _).tail (.xreg _ _ _)

theorem edits_selsigBody {ra : XReg} (h : selsigBody ra s = .ok t) : Edits s t := by
  rw [selsigBody, check_eq_ok, check_eq_ok, Except.ok.injEq] at h
  obtain ⟨hid, _, rfl⟩ := h
  exact .single (.context s _ fun hc => hc.select (Nat.lt_of_not_le hid))

theorem edits_crc24Body {ra rb : XReg} {cont : Bool} (h : crc24Body ra rb cont s = .ok t) :
    Edits s t := by
  rw [crc24Body, range_eq_ok, Except.ok.injEq] at h
  obtain ⟨_, rfl⟩ := h
  exact .single (.context s _ fun hc => hc)

theorem edits_convBody {rd ra rb : XReg} {keep : Bool} (h : convBody rd ra rb keep s = .ok t) :
    Edits s t := by
  rw [convBody, range_eq_ok, Bool.and_eq_true, inRange_iff, inRange_iff, Except.ok.injEq] at h
  obtain ⟨⟨_, hfit⟩, rfl⟩ := h
  refine .tail (.single (.context s _ ?_)) (.bits _ _ _ ?_)
  · exact fun hc => hc
  · simpa using hfit

/-- `ILVW` writes inside the block its configuration gives, which ISTORE holds (R237). -/
theorem edits_ilvwBody {ra rb : XReg} (h : ilvwBody ra rb s = .ok t) : Edits s t := by
  rw [ilvwBody, check_eq_ok, range_eq_ok, badInterleaver_iff, Except.ok.injEq] at h
  obtain ⟨hcfg, _, rfl⟩ := h
  simp only [interleaverIllegal, not_or, Nat.not_le] at hcfg
  obtain ⟨_, _, hmax, hiwr, _⟩ := hcfg
  refine .single (.context s _ fun hc => ?_)
  obtain ⟨_, _, _, _, _, _, histore, _⟩ := id hc
  exact hc.setIstore
    (wf_ringWrite (Nat.zero_lt_of_lt hiwr) (Nat.le_of_not_lt hmax) _ _ histore)

theorem edits_ilvrBody {rd rb : XReg} (h : ilvrBody rd rb s = .ok t) : Edits s t := by
  rw [ilvrBody, check_eq_ok, range_eq_ok, inRange_iff, Except.ok.injEq] at h
  obtain ⟨_, hfit, rfl⟩ := h
  refine .tail (.single (.context s _ ?_)) (.bits _ _ _ ?_)
  · exact fun hc => hc
  · simpa using hfit

theorem edits_t2bBody {rd ra : XReg} (h : t2bBody rd ra s = .ok t) : Edits s t := by
  rw [t2bBody, check_eq_ok, Except.ok.injEq] at h
  obtain ⟨_, rfl⟩ := h
  exact (edits_flagIf s _ _).tail (.xreg _ _ _)

theorem edits_seekBody {ra : XReg} (h : seekBody ra s = .ok t) : Edits s t := by
  rw [seekBody, check_eq_ok, Except.ok.injEq] at h
  obtain ⟨_, rfl⟩ := h
  exact .single (.context s _ fun hc => hc)

theorem edits_advBody (h : advBody s = .ok t) : Edits s t := by
  rw [advBody, check_eq_ok, Except.ok.injEq] at h
  obtain ⟨_, rfl⟩ := h
  exact .single (.context s _ Context.wf.advance)

theorem edits_bcopyBody {rd ra rb : XReg} (h : bcopyBody rd ra rb s = .ok t) : Edits s t := by
  rw [bcopyBody, range_eq_ok, Bool.and_eq_true, inRange_iff, inRange_iff, Except.ok.injEq] at h
  obtain ⟨⟨_, hfit⟩, rfl⟩ := h
  exact .single (.bits s _ _ (by simpa using hfit))

theorem edits_tileBody {rd ra rb rc re : XReg} (h : tileBody rd ra rb rc re s = .ok t) :
    Edits s t := by
  rw [tileBody, check_eq_ok, range_eq_ok, Bool.and_eq_true, inRange_iff, inRange_iff,
    Except.ok.injEq] at h
  obtain ⟨_, ⟨_, hfit⟩, rfl⟩ := h
  exact .single (.bits s _ _ (by simpa using hfit))

theorem edits_modBody {rd ra rb : XReg} (h : modBody rd ra rb s = .ok t) : Edits s t := by
  simp only [modBody, check_eq_ok, Except.ok.injEq] at h
  obtain ⟨_, _, _, _, hfit, _, rfl⟩ := h
  exact .single (.samples s _ _ (by simpa using hfit))

theorem edits_modofsBody {rd : XReg} (h : modofsBody rd s = .ok t) : Edits s t := by
  rw [modofsBody, check_eq_ok, check_eq_ok, Except.ok.injEq] at h
  obtain ⟨_, _, rfl⟩ := h
  exact (edits_flagIf s _ _).tail (.xreg _ _ _)

end

/-! ### The commands -/

theorem edits_kepler (s : State) (qd : QReg) (manom e : Int) :
    let r := (kepler manom e).run s.status
    Edits s (((s.setStatus r.2).setQ qd r.1.1).setKiter r.1.2) := by
  have huniform : Uniform [.qovf, .divz, .noconv] (kepler manom e) :=
    uniform_kepler (by simp) (by simp) (by simp) manom e
  obtain ⟨_, _, hit⟩ := ensures_kepler manom e s.status
  exact ((huniform.edits s).tail (.qreg _ _ _)).tail (.kiter _ _ hit)

theorem edits_propagate (s : State) (el : Elements) (epoch toa : Int) (hz : Nat) :
    let r := (propagate el epoch toa hz).run s.status
    Edits s ((s.setStatus r.2).storeOrbit r.1) := by
  have huniform : Uniform [.qovf, .divz, .noconv, .negsqrt] (propagate el epoch toa hz) :=
    uniform_propagate (by simp) (by simp) (by simp) (by simp) el epoch toa hz
  obtain ⟨_, _, _, hit⟩ := ensures_propagate el epoch toa hz s.status
  exact (huniform.edits s).trans (edits_storeOrbit _ _ hit)

/-- From every state every command answers a next state, by edits within the state's bounds. -/
theorem exec_edits (i : Instr) (s : State) : ∃ t, exec i s = .next t ∧ Edits s t := by
  cases i with
  | nop => exact ⟨_, rfl, edits_runExempt .refl⟩
  | ctxclr =>
    exact ⟨_, rfl, edits_runExempt
      (((edits_clearFault s).trans (edits_clearSignal _)).trans (edits_clearFec _))⟩
  | selsig ra => exact ⟨_, rfl, edits_runCommand fun _ => edits_selsigBody⟩
  | fecrst =>
    refine ⟨_, rfl, edits_runCommand fun t h => ?_⟩
    cases h
    exact edits_clearFec s
  | pack ra signed wm1 => exact ⟨_, rfl, edits_runCommand fun _ => edits_packBody⟩
  | packi wm1 imm => exact ⟨_, rfl, edits_runCommand fun _ => edits_packField⟩
  | packsp w => exact ⟨_, rfl, edits_runCommand fun _ => edits_packspBody⟩
  | qscale rd qa k sc => exact ⟨_, rfl, edits_runCommand fun _ => edits_qscaleBody⟩
  | pwlq rd ra up => exact ⟨_, rfl, edits_runCommand fun _ => edits_pwlqBody⟩
  | crc24 ra rb cont => exact ⟨_, rfl, edits_runCommand fun _ => edits_crc24Body⟩
  | crcput => exact ⟨_, rfl, edits_runCommand fun _ => edits_packField⟩
  | conv rd ra rb keep => exact ⟨_, rfl, edits_runCommand fun _ => edits_convBody⟩
  | ilvw ra rb => exact ⟨_, rfl, edits_runCommand fun _ => edits_ilvwBody⟩
  | ilvr rd rb => exact ⟨_, rfl, edits_runCommand fun _ => edits_ilvrBody⟩
  | t2b rd ra => exact ⟨_, rfl, edits_runCommand fun _ => edits_t2bBody⟩
  | seek ra => exact ⟨_, rfl, edits_runCommand fun _ => edits_seekBody⟩
  | adv => exact ⟨_, rfl, edits_runCommand fun _ => edits_advBody⟩
  | wtype rd =>
    refine ⟨_, rfl, edits_runCommand fun t h => ?_⟩
    cases h
    exact .single (.xreg s _ _)
  | almidx rd =>
    refine ⟨_, rfl, edits_runCommand fun t h => ?_⟩
    cases h
    exact .single (.xreg s _ _)
  | bcopy rd ra rb => exact ⟨_, rfl, edits_runCommand fun _ => edits_bcopyBody⟩
  | tile rd ra rb rc re => exact ⟨_, rfl, edits_runCommand fun _ => edits_tileBody⟩
  | mod rd ra rb => exact ⟨_, rfl, edits_runCommand fun _ => edits_modBody⟩
  | modofs rd => exact ⟨_, rfl, edits_runCommand fun _ => edits_modofsBody⟩
  | kepler qd qa qb => exact ⟨_, rfl, edits_runExempt (edits_kepler s qd _ _)⟩
  | prop ra rb => exact ⟨_, rfl, edits_runExempt (edits_propagate s _ _ _ _)⟩
  | reldly qd =>
    have huniform : Uniform [.qovf, .divz] (relativisticDelay (s.qval 0) (s.qval 1) (s.qval 22)
        (s.qval 24) (s.qval 26)) := uniform_relativisticDelay (by simp) (by simp) _ _ _ _ _
    exact ⟨_, rfl, edits_runExempt ((huniform.edits s).tail (.qreg _ _ _))⟩

end Sys2Proof.Machine

/-! The host's transactions: what each does to the state, and that each keeps the invariant. -/

namespace Sys2Proof.Machine

/-! ### The reset state -/

theorem State.wf_resetWith {p : Params} (hp : p.Legal) (n : Nat) : (State.resetWith p n).wf := by
  have hbanks : ∀ c ∈ (State.resetWith p n).banks, Context.wf p c.2 := by
    intro c hc
    obtain ⟨k, _, rfl⟩ := List.mem_map.1 hc
    exact Context.wf_reset p
  have hkeys : (State.resetWith p n).banks.map Prod.fst = List.range p.nctx := by
    simp [State.resetWith, Function.comp_def]
  have hctx : 0 < p.nctx := hp.1
  have hstatus : (0 : BitVec 8).toNat < 64 := by decide
  refine ⟨hp, hctx, ⟨hkeys, hbanks⟩, hstatus, Nat.zero_le 8, Nat.zero_le 64, Memory.wf_nil _,
    Memory.wf_nil _, Memory.wf_nil _, ⟨Memory.wf_nil _, ?_⟩, Memory.wf_nil _, ?_⟩
  · exact fun c hc => absurd hc List.not_mem_nil
  · exact fun c hc => absurd hc List.not_mem_nil

/-! ### Writes to a register -/

theorem clearFlags_toNat_le (st m : BitVec 8) : (clearFlags st m).toNat ≤ st.toNat := by
  rw [clearFlags, BitVec.toNat_and]
  exact Nat.and_le_left

theorem State.wf.setCtx {s : State} (h : s.wf) {v : BitVec 16} (hv : v.toNat < s.params.nctx) :
    State.wf { s with ctx := v } := by
  obtain ⟨hparams, _, hrest⟩ := h
  exact ⟨hparams, hv, hrest⟩

theorem State.writeReg_ctx (s : State) (v : BitVec 128) :
    s.writeReg v .ctx =
      if v.toNat < s.params.nctx then { s with ctx := v.setWidth 16 } else s := rfl

theorem State.wf.writeReg {s : State} (h : s.wf) (v : BitVec 128) (r : Reg) :
    (s.writeReg v r).wf := by
  cases r
  case ctx =>
    rw [State.writeReg_ctx]
    split
    · next hv =>
      have hlow : (v.setWidth 16).toNat ≤ v.toNat := by simpa using Nat.mod_le v.toNat 65536
      exact h.setCtx (hlow.trans_lt hv)
    · exact h
  case status =>
    obtain ⟨_, _, _, hstatus, _⟩ := id h
    exact h.setStatus (Nat.lt_of_le_of_lt (clearFlags_toNat_le _ _) hstatus)
  case convcfg => exact h.setCur (h.cur.setConvcfg _)
  case ilvcfg => exact h.setCur (h.cur.setIlvcfg _)
  case nb n | nk n | nc n | brm n => exact h.setCur (h.cur.setStream n _)
  case x | q | id | tickHz | maxtt | crcPoly | spare | splen | kiter | lastst | qtn | sigt | sigv
      | fsr | finfo => exact h
  case wp | br | ppb | npp | pgs | sfs | sf | pg | pp | boff | csr | iwr | ird | crcr | spc | mflags
      | ncomp | cb | cl | sb | sl | ds => exact h.setCur h.cur

/-! ### Writes to a memory space -/

theorem lowBits_toNat_lt {n : Nat} (w : Nat) (v : BitVec n) : (lowBits w v).toNat < 2 ^ w := by
  rw [lowBits, BitVec.toNat_setWidth]
  exact Nat.lt_of_le_of_lt (Nat.mod_le _ _) (v.setWidth w).isLt

theorem elementDefined_iff (p : Params) (sp : Space) (a : Nat) :
    elementDefined p sp a = true ↔ a < Params.size p sp ∧ (sp = .scat → a % 8 < 6) := by
  rw [elementDefined, Bool.and_eq_true, decide_eq_true_eq, Bool.or_eq_true, decide_eq_true_eq,
    decide_eq_true_eq, imp_iff_not_or]

theorem State.wf.writeSpace {s : State} (h : s.wf) {sp : Space} {a : Nat}
    (ha : a < Params.size s.params sp) (hfield : sp = .scat → a % 8 < 6) (v : BitVec 64) :
    (s.writeSpace sp a v).wf := by
  have hcur := h.cur
  obtain ⟨_, _, _, _, _, _, histore, hpft, hait⟩ := id hcur
  cases sp with
  | bm => exact h.writeBits ha
  | sm => exact h.writeSamples ha
  | istore => exact h.setCur (hcur.setIstore (Memory.wf_put histore a _ ha))
  | pft => exact h.setCur (hcur.setPft (Memory.wf_put hpft a _ ha))
  | ait => exact h.setCur (hcur.setAit (Memory.wf_put hait a _ ha))
  | cm =>
    obtain ⟨hparams, hctx, hbanks, hstatus, hlastst, hkiter, hbm, hcm, hrest⟩ := h
    exact ⟨hparams, hctx, hbanks, hstatus, hlastst, hkiter, hbm, Memory.wf_put hcm a _ ha, hrest⟩
  | qt =>
    obtain ⟨hparams, hctx, hbanks, hstatus, hlastst, hkiter, hbm, hcm, hsm, ⟨hqt, hcells⟩, hscat⟩ := h
    refine ⟨hparams, hctx, hbanks, hstatus, hlastst, hkiter, hbm, hcm, hsm,
      ⟨Memory.wf_put hqt a _ ha, fun c hc => ?_⟩, hscat⟩
    rcases Memory.mem_put hc with hc | rfl
    · exact hcells c hc
    · exact lowBits_toNat_lt _ v
  | scat =>
    obtain ⟨hparams, hctx, hbanks, hstatus, hlastst, hkiter, hbm, hcm, hsm, hqt, hscat, hcells⟩ := h
    refine ⟨hparams, hctx, hbanks, hstatus, hlastst, hkiter, hbm, hcm, hsm, hqt,
      Memory.wf_put hscat a _ ha, fun c hc => ?_⟩
    rcases Memory.mem_put hc with hc | rfl
    · exact hcells c hc
    · exact ⟨hfield rfl, lowBits_toNat_lt _ v⟩

/-! ### Commands presented by the host -/

theorem present_of_decode {w : Word} {i : Instr} {s t : State} (hd : decode w = .ok i)
    (he : exec i s = .next t) : present w s = .next (t.answer (.status t.lastst)) := by
  simp only [present, hd, he, answerStatus]

/-- Whatever word the host presents, the machine edits the state and answers the status in
`LASTST` (R117, R291). -/
theorem present_edits (w : Word) (s : State) :
    ∃ t, Edits s t ∧ present w s = .next (t.answer (.status t.lastst)) := by
  cases hd : decode w with
  | ok i =>
    obtain ⟨t, he, hedits⟩ := exec_edits i s
    exact ⟨t, hedits, present_of_decode hd he⟩
  | error e =>
    exact ⟨_, edits_enterFault s .illegalCommand w, by simp only [present, hd, answerStatus]⟩

/-! ### One transaction, one step -/

section
variable {s : State} {n : Nat} {r : Reg} {sp : Space} {a : Nat}

theorem perform_regWrite (hr : Reg.ofNumber n = some r) (v : BitVec 128) :
    perform (.regWrite n v) s = .next (s.writeReg v r) := by
  simp only [perform, hr]

theorem perform_regRead (hr : Reg.ofNumber n = some r) :
    perform (.regRead n) s = .next (s.answer (.value (s.readReg r))) := by
  simp only [perform, hr]

theorem perform_spaceWrite (ha : a < Params.size s.params sp) (hfield : sp = .scat → a % 8 < 6)
    (v : BitVec 64) : perform (.spaceWrite sp a v) s = .next (s.writeSpace sp a v) :=
  if_pos ((elementDefined_iff _ _ _).2 ⟨ha, hfield⟩)

theorem perform_spaceRead (ha : a < Params.size s.params sp) (hfield : sp = .scat → a % 8 < 6) :
    perform (.spaceRead sp a) s = .next (s.answer (.value (s.readSpace sp a))) :=
  if_pos ((elementDefined_iff _ _ _).2 ⟨ha, hfield⟩)

theorem step_of_idle (h : s.pending = []) : step s = .next s := by
  simp only [step, nextTransaction, h]

theorem step_of_pending {e : HostEvent} {rest : List HostEvent} (h : s.pending = e :: rest) :
    step s = perform e { s with pending := rest } := by
  simp only [step, nextTransaction, h]

end

theorem perform_keeps_wf {e : HostEvent} {s t : State} (h : s.wf)
    (hp : perform e s = .next t) : t.wf := by
  cases e with
  | regWrite n v =>
    cases hr : Reg.ofNumber n with
    | none => simp [perform, hr] at hp
    | some r =>
      rw [perform_regWrite hr] at hp
      cases hp
      exact h.writeReg v r
  | regRead n =>
    cases hr : Reg.ofNumber n with
    | none => simp [perform, hr] at hp
    | some r =>
      rw [perform_regRead hr] at hp
      cases hp
      exact h
  | spaceWrite sp a v =>
    by_cases hdef : a < Params.size s.params sp ∧ (sp = .scat → a % 8 < 6)
    · rw [perform_spaceWrite hdef.1 hdef.2] at hp
      cases hp
      exact h.writeSpace hdef.1 hdef.2 v
    · simp [perform, elementDefined_iff, hdef] at hp
  | spaceRead sp a =>
    by_cases hdef : a < Params.size s.params sp ∧ (sp = .scat → a % 8 < 6)
    · rw [perform_spaceRead hdef.1 hdef.2] at hp
      cases hp
      exact h
    · simp [perform, elementDefined_iff, hdef] at hp
  | cmd w =>
    obtain ⟨u, hedits, hu⟩ := present_edits w s
    have hpresent : present w s = .next t := hp
    rw [hu] at hpresent
    cases hpresent
    exact hedits.wf h
  | reset =>
    cases hp
    obtain ⟨hparams, _⟩ := h
    exact State.wf_resetWith hparams (s.resets + 1)

theorem step_keeps_wf {s t : State} (h : s.wf) (hs : step s = .next t) : t.wf := by
  cases hp : s.pending with
  | nil =>
    rw [step_of_idle hp] at hs
    cases hs
    exact h
  | cons e rest =>
    rw [step_of_pending hp] at hs
    exact perform_keeps_wf (s := { s with pending := rest }) h hs

/-! ### Register numbers -/

theorem Reg.ofNumber_x (i : XReg) : Reg.ofNumber i.toNat = some (.x i) := by
  rw [Reg.ofNumber.eq_def, if_pos i.isLt, BitVec.ofNat_toNat, BitVec.setWidth_eq]

theorem Reg.ofNumber_q (i : QReg) : Reg.ofNumber (0x020 + i.toNat) = some (.q i) := by
  have hi := i.isLt
  rw [Reg.ofNumber.eq_def, if_neg (by omega), if_pos (by omega), Nat.add_sub_cancel_left,
    BitVec.ofNat_toNat, BitVec.setWidth_eq]

/-- The numbers 0x0B0 + 8k + f name the fields of the components (R41). -/
theorem Reg.ofNumber_component (k : Fin 4) {f : Nat} (hf : f < 8) :
    Reg.ofNumber (0x0B0 + f + 8 * k.val) = componentReg k f := by
  have hk := k.isLt
  have hquot : (0x0B0 + f + 8 * k.val - 0x0B0) / 8 = k.val := by omega
  have hfield : (0x0B0 + f + 8 * k.val - 0x0B0) % 8 = f := by omega
  have hfin : Fin.ofNat 4 k.val = k := Fin.ext (Nat.mod_eq_of_lt hk)
  rw [Reg.ofNumber.eq_def, if_neg (by omega), if_neg (by omega), if_pos (by omega), hquot, hfield,
    hfin]

end Sys2Proof.Machine

/-! The obligations about steps and transactions. -/

namespace Sys2Proof.Machine

/-- Settles O14: a step with nothing to do keeps the state, and each transaction keeps the invariant; a
command does because the edits it makes do. -/
theorem stepKeepsWf : Obligations.StepKeepsWf := by
  intro s t h hs
  exact step_keeps_wf h hs

/-- Settles O5: a command always answers a next state, and no edit it makes reaches the host's side. -/
theorem stepRunsDecoded : Obligations.StepRunsDecoded := by
  intro s w rest i hp hd
  obtain ⟨t, he, hedits⟩ := exec_edits i { s with pending := rest }
  obtain ⟨hpending, hresponses⟩ := hedits.hostSide
  refine ⟨t, he, hpending, hresponses, ?_⟩
  calc step s = present w { s with pending := rest } := step_of_pending hp
    _ = .next (t.answer (.status t.lastst)) := present_of_decode hd he
    _ = .next { t with responses := s.responses ++ [.status t.lastst] } := by
      rw [State.answer, hresponses]

/-- Settles O7: the transactions by their own laws, the tables row by row. -/
theorem stepOfOtherTransactions : Obligations.StepOfOtherTransactions := by
  intro s rest n r v sp a u
  refine ⟨step_of_idle, fun hp hr => ?_, fun hp ha hfield => ?_, fun hp hr => ?_,
    fun hp ha hfield => ?_, fun hp => ?_, fun i => ⟨Reg.ofNumber_x i, rfl⟩,
    fun i => ⟨Reg.ofNumber_q i, rfl⟩, fun k => ?_, ?_⟩
  · exact (step_of_pending hp).trans (perform_regWrite hr v)
  · exact (step_of_pending hp).trans (perform_spaceWrite (s := { s with pending := rest }) ha hfield u)
  · exact (step_of_pending hp).trans (perform_regRead hr)
  · exact (step_of_pending hp).trans (perform_spaceRead (s := { s with pending := rest }) ha hfield)
  · exact step_of_pending hp
  · intro row hrow
    fin_cases hrow
    · exact ⟨Reg.ofNumber_component k (f := 0) (by decide), rfl⟩
    · exact ⟨Reg.ofNumber_component k (f := 1) (by decide), rfl⟩
    · exact ⟨Reg.ofNumber_component k (f := 2) (by decide), rfl⟩
    · exact ⟨Reg.ofNumber_component k (f := 3) (by decide), rfl⟩
    · exact ⟨Reg.ofNumber_component k (f := 4) (by decide), rfl⟩
  · intro row hrow
    fin_cases hrow <;> exact ⟨rfl, rfl⟩

/-- Settles O13: nothing is written after reset and every context is at its reset values. -/
theorem resetWf : Obligations.ResetWf :=
  ⟨fun _ n hp => State.wf_resetWith hp n, State.wf_resetWith (by decide) 0⟩

end Sys2Proof.Machine

/-! What a command does as data: a list of updates that depends on the state only through what a command may
read. The frames between contexts, of `STATUS` and of the registers are read off these lists. -/

namespace Sys2Proof.Machine

/-! ### Updates -/

/-- One of the updates the commands are made of, as data, so that one list of them can be applied to several
states. -/
inductive Update
  | xreg (r : XReg) (v : Int)
  | qreg (r : QReg) (v : Int)
  | flags (d : List Flag)
  | kiter (it : Nat)
  | context (c : Context)
  | bits (a : Nat) (bs : List Bool)
  | samples (a : Nat) (vs : List Sample)

def Update.apply : Update → State → State
  | .xreg r v, s => s.setX r v
  | .qreg r v, s => s.setQ r v
  | .flags d, s => s.setStatus (addFlags d s.status)
  | .kiter it, s => s.setKiter it
  | .context c, s => s.setCur c
  | .bits a bs, s => s.writeBits a bs
  | .samples a vs, s => s.writeSamples a vs

/-- The flags an update adds to `STATUS`. -/
def Update.raised : Update → List Flag
  | .flags d => d
  | _ => []

/-- The updates the command `i`, executed in the context `c`, may make: the tables of writers of 10_state.md
and 20_memory.md R80. -/
def Update.Allowed (i : Instr) (c : Context) : Update → Prop
  | .xreg r _ => xDest i = some r
  | .qreg r _ => r ∈ qDests i
  | .flags d => ∀ f ∈ d, f ∈ flagsOf i
  | .kiter _ => writesKiter i = true
  | .context d => d = c.writtenBy i d
  | .bits _ _ => writesBm i = true
  | .samples _ _ => writesSm i = true

theorem Update.apply_ctx (u : Update) (s : State) : (u.apply s).ctx = s.ctx := by
  cases u <;> rfl

theorem Update.apply_config (u : Update) (s : State) :
    ((u.apply s).tickHz, (u.apply s).maxtt, (u.apply s).crcPoly, (u.apply s).spare,
      (u.apply s).splen, (u.apply s).qtn) =
      (s.tickHz, s.maxtt, s.crcPoly, s.spare, s.splen, s.qtn) := by
  cases u <;> rfl

theorem Update.apply_bank (u : Update) (s : State) {k : Nat} (hk : k ≠ s.ctx.toNat) :
    (u.apply s).bank k = s.bank k := by
  cases u with
  | context c => exact (State.bank_setCur s c k).trans (if_neg hk)
  | xreg | qreg | flags | kiter | bits | samples => rfl

/-- An update made from another value of `STATUS` differs in `STATUS` only. -/
theorem Update.apply_setStatus (u : Update) (s : State) (st : BitVec 8) :
    u.apply (s.setStatus st) = (u.apply s).setStatus (addFlags u.raised st) := by
  cases u <;> rfl

/-- An update made from other contexts differs in the contexts only. -/
theorem Update.apply_banks (u : Update) (s : State) (b : Memory Context) :
    ∃ b', u.apply { s with banks := b } = { u.apply s with banks := b' } := by
  cases u <;> exact ⟨_, rfl⟩

/-! ### Lists of updates -/

/-- Makes the updates of a list, first to last. -/
def State.update (s : State) (us : List Update) : State := us.foldl (fun t u => u.apply t) s

theorem State.update_cons (s : State) (u : Update) (us : List Update) :
    s.update (u :: us) = (u.apply s).update us := rfl

/-- What no update of a list changes, the list does not change. -/
theorem State.update_keeps {β : Type} (f : State → β) {us : List Update}
    (h : ∀ u ∈ us, ∀ s, f (u.apply s) = f s) (s : State) : f (s.update us) = f s := by
  induction us generalizing s with
  | nil => rfl
  | cons u us ih =>
    obtain ⟨hu, hus⟩ := List.forall_mem_cons.1 h
    exact (ih hus _).trans (hu s)

theorem State.update_ctx (s : State) (us : List Update) : (s.update us).ctx = s.ctx :=
  update_keeps State.ctx (fun u _ => u.apply_ctx) s

theorem State.update_config (s : State) (us : List Update) :
    (s.update us).tickHz = s.tickHz ∧ (s.update us).maxtt = s.maxtt ∧
      (s.update us).crcPoly = s.crcPoly ∧ (s.update us).spare = s.spare ∧
      (s.update us).splen = s.splen ∧ (s.update us).qtn = s.qtn := by
  have h := update_keeps (fun s => (s.tickHz, s.maxtt, s.crcPoly, s.spare, s.splen, s.qtn))
    (us := us) (fun u _ => u.apply_config) s
  simpa only [Prod.mk.injEq] using h

theorem State.update_sameOthers (s : State) (us : List Update) : sameOthers s (s.update us) := by
  induction us generalizing s with
  | nil => exact fun _ _ => rfl
  | cons u us ih =>
    intro k hk
    rw [State.update_cons, ih (u.apply s) k (by rwa [u.apply_ctx]), u.apply_bank s hk]

theorem State.update_setStatus (s : State) (st : BitVec 8) (us : List Update) :
    (s.setStatus st).update us = (s.update us).setStatus (addFlags (us.flatMap Update.raised) st) := by
  induction us generalizing s st with
  | nil => rfl
  | cons u us ih =>
    rw [State.update_cons, u.apply_setStatus, ih, List.flatMap_cons, addFlags_append, State.update_cons]

theorem State.update_banks (s : State) (b : Memory Context) (us : List Update) :
    ∃ b', State.update { s with banks := b } us = { s.update us with banks := b' } := by
  induction us generalizing s b with
  | nil => exact ⟨b, rfl⟩
  | cons u us ih =>
    obtain ⟨b', hb'⟩ := u.apply_banks s b
    rw [State.update_cons, hb']
    exact ih (u.apply s) b'

/-- The current context after a list of updates is the one before or one of the list. -/
theorem State.update_cur (s : State) (us : List Update) :
    (s.update us).cur = s.cur ∨ .context (s.update us).cur ∈ us := by
  induction us generalizing s with
  | nil => exact .inl rfl
  | cons u us ih =>
    rcases ih (u.apply s) with h | h
    · cases u with
      | context c =>
        have hc : ((Update.context c).apply s).cur = c := State.cur_setCur s c
        exact .inr (by rw [State.update_cons, h, hc]; exact List.mem_cons_self)
      | xreg | qreg | flags | kiter | bits | samples => exact .inl h
    · exact .inr (List.mem_cons_of_mem _ h)

/-! ### What the allowed updates leave alone -/

section
variable {i : Instr} {c : Context} {us : List Update}

theorem raised_subset (h : ∀ u ∈ us, u.Allowed i c) :
    ∀ f ∈ us.flatMap Update.raised, f ∈ flagsOf i := by
  intro f hf
  obtain ⟨u, hu, hfu⟩ := List.mem_flatMap.1 hf
  have hallowed := h u hu
  cases u with
  | flags d => exact hallowed f hfu
  | xreg | qreg | kiter | context | bits | samples => cases hfu

theorem State.xreg_update (h : ∀ u ∈ us, u.Allowed i c) {r : XReg} (hr : xDest i ≠ some r)
    (s : State) : (s.update us).xreg r = s.xreg r := by
  refine update_keeps (State.xreg · r) (fun u hu s => ?_) s
  have hallowed := h u hu
  cases u with
  | xreg r' v =>
    have hdest : xDest i = some r' := hallowed
    exact (State.xreg_setX s r' v r).trans (if_neg fun heq : r = r' => hr (heq ▸ hdest))
  | qreg | flags | kiter | context | bits | samples => rfl

theorem State.qval_update (h : ∀ u ∈ us, u.Allowed i c) {r : QReg} (hr : r ∉ qDests i)
    (s : State) : (s.update us).qval r = s.qval r := by
  refine update_keeps (State.qval · r) (fun u hu s => ?_) s
  have hallowed := h u hu
  cases u with
  | qreg r' v =>
    have hdest : r' ∈ qDests i := hallowed
    exact (State.qval_setQ s r' v r).trans (if_neg fun heq : r = r' => hr (heq ▸ hdest))
  | xreg | flags | kiter | context | bits | samples => rfl

theorem State.kiter_update (h : ∀ u ∈ us, u.Allowed i c) (hi : writesKiter i = false)
    (s : State) : (s.update us).kiter = s.kiter := by
  refine update_keeps State.kiter (fun u hu s => ?_) s
  have hallowed := h u hu
  cases u with
  | kiter it =>
    have hwrites : writesKiter i = true := hallowed
    simp [hi] at hwrites
  | xreg | qreg | flags | context | bits | samples => rfl

end

/-! ### The writers of the registers of a context -/

theorem Context.writtenBy_self (c : Context) (i : Instr) : c.writtenBy i c = c := by
  cases i <;> rfl

/-- Only `CTXCLR` writes the record of a fault (R43, R302). -/
theorem Context.writtenBy_record (c d : Context) {i : Instr} (h : i ≠ .ctxclr) :
    (c.writtenBy i d).fsr = c.fsr ∧ (c.writtenBy i d).finfo = c.finfo := by
  cases i with
  | ctxclr => exact absurd rfl h
  | _ => exact ⟨rfl, rfl⟩

/-- The context with a fault record, or with none (R295, R302). -/
def Context.withRecord (c : Context) (code : BitVec 8) (w : Word) : Context :=
  { c with fsr := code, finfo := w }

theorem Context.withRecord_self (c : Context) : c.withRecord c.fsr c.finfo = c := rfl

/-- But for its record a context that a fault leaves is as it was, whatever the command writes (R295). -/
theorem Context.withRecord_eq_writtenBy (c : Context) (i : Instr) (code : BitVec 8) (w : Word) :
    c.withRecord code w = (c.writtenBy i (c.withRecord code w)).withRecord code w := by
  cases i <;> rfl

theorem State.cur_update {i : Instr} {s : State} {us : List Update}
    (h : ∀ u ∈ us, u.Allowed i s.cur) :
    (s.update us).cur = s.cur.writtenBy i (s.update us).cur := by
  rcases s.update_cur us with hsame | hmem
  · rw [hsame, Context.writtenBy_self]
  · exact h _ hmem

/-! ### States a command cannot tell apart -/

/-- The state with other contents of `STATUS` and of the contexts. -/
def State.vary (s : State) (st : BitVec 8) (b : Memory Context) : State :=
  { s with status := st, banks := b }

/-- The two states differ at most in `STATUS` and in contexts other than the current one. -/
def Alike (s s' : State) : Prop := ∃ st b, s' = s.vary st b ∧ s'.cur = s.cur

theorem Alike.refl (s : State) : Alike s s := ⟨s.status, s.banks, rfl, rfl⟩

theorem alike_setStatus (s : State) (st : BitVec 8) : Alike s (s.setStatus st) :=
  ⟨st, s.banks, rfl, rfl⟩

theorem alike_banks {s : State} {b : Memory Context}
    (h : b.get? s.ctx.toNat = s.banks.get? s.ctx.toNat) : Alike s { s with banks := b } :=
  ⟨s.status, b, rfl, congrArg (Option.getD · Context.reset) h⟩

/-- An update keeps alike states alike. -/
theorem Alike.apply {s s' : State} (h : Alike s s') (u : Update) : Alike (u.apply s) (u.apply s') := by
  obtain ⟨st, b, rfl, hcur⟩ := h
  cases u with
  | context c => exact ⟨st, _, rfl, (State.cur_setCur _ c).trans (State.cur_setCur _ c).symm⟩
  | flags d => exact ⟨addFlags d st, b, rfl, hcur⟩
  | xreg | qreg | kiter | bits | samples => exact ⟨st, b, rfl, hcur⟩

theorem Alike.update {s s' : State} (h : Alike s s') (us : List Update) :
    Alike (s.update us) (s'.update us) := by
  induction us generalizing s s' with
  | nil => exact h
  | cons u us ih => exact ih (h.apply u)

/-! ### What a command reads -/

/-- The checks of a command's body, then its effect: either every state alike `s` fails them with the same
cause, or all of them take the same allowed updates. -/
def Steady (i : Instr) (s : State) (body : State → Except Cause State) : Prop :=
  (∃ e, ∀ s', Alike s s' → body s' = .error e) ∨
    ∃ us, (∀ u ∈ us, u.Allowed i s.cur) ∧ ∀ s', Alike s s' → body s' = .ok (s'.update us)

section
variable {i : Instr} {s : State} {body : State → Except Cause State} {p : State → Prop}
  [DecidablePred p] {e : Cause}

/-- An effect that makes the same updates in every state alike `s`. -/
theorem Steady.ok {f : State → State} (us : List Update) (h : ∀ u ∈ us, u.Allowed i s.cur)
    (hf : ∀ st b, (s.vary st b).cur = s.cur → f (s.vary st b) = (s.vary st b).update us) :
    Steady i s fun s => .ok (f s) := by
  refine .inr ⟨us, h, ?_⟩
  rintro _ ⟨st, b, rfl, hcur⟩
  exact congrArg Except.ok (hf st b hcur)

/-- A check that all states alike `s` pass or fail together. -/
theorem Steady.check (hp : ∀ st b, (s.vary st b).cur = s.cur → (p (s.vary st b) ↔ p s))
    (hbody : Steady i s body) : Steady i s fun s => if p s then .error e else body s := by
  by_cases h : p s
  · refine .inl ⟨e, ?_⟩
    rintro _ ⟨st, b, rfl, hcur⟩
    exact if_pos ((hp st b hcur).2 h)
  · have hneg : ∀ s', Alike s s' → (if p s' then .error e else body s') = body s' := by
      rintro _ ⟨st, b, rfl, hcur⟩
      exact if_neg (mt (hp st b hcur).1 h)
    exact hbody.imp
      (fun ⟨e', hb⟩ => ⟨e', fun s' hs => (hneg s' hs).trans (hb s' hs)⟩)
      (fun ⟨us, hus, hb⟩ => ⟨us, hus, fun s' hs => (hneg s' hs).trans (hb s' hs)⟩)

/-- A range check that all states alike `s` pass or fail together. -/
theorem Steady.range (hp : ∀ st b, (s.vary st b).cur = s.cur → (p (s.vary st b) ↔ p s))
    (hbody : Steady i s body) : Steady i s fun s => if p s then body s else .error e := by
  have h := Steady.check (p := fun s => ¬ p s) (e := e) (fun st b hcur => not_congr (hp st b hcur)) hbody
  simpa only [ite_not] using h

end

end Sys2Proof.Machine

/-! The body of each command makes the same updates in all states it cannot tell apart. -/

namespace Sys2Proof.Machine

section
variable {i : Instr} {s : State}

/-- What follows updates that all states alike `s` make. -/
theorem Steady.after {f : State → State} {body : State → Except Cause State} (us : List Update)
    (h : ∀ u ∈ us, u.Allowed i s.cur) (hsame : (s.update us).cur = s.cur)
    (hf : ∀ s', Alike s s' → f s' = s'.update us) (hbody : Steady i (s.update us) body) :
    Steady i s fun s => body (f s) := by
  rcases hbody with ⟨e, hb⟩ | ⟨vs, hvs, hb⟩
  · exact .inl ⟨e, fun s' hs => (congrArg body (hf s' hs)).trans (hb _ (hs.update us))⟩
  · refine .inr ⟨us ++ vs, ?_, fun s' hs => ?_⟩
    · exact fun u hu => (List.mem_append.1 hu).elim (h u) fun hu => hsame ▸ hvs u hu
    · calc body (f s') = body (s'.update us) := congrArg body (hf s' hs)
        _ = .ok ((s'.update us).update vs) := hb _ (hs.update us)
        _ = .ok (s'.update (us ++ vs)) := congrArg Except.ok List.foldl_append.symm

/-- The flags `flag(f)` adds when `c` holds. -/
def flagWhen (f : Flag) (c : Bool) : List Flag := if c then [f] else []

theorem flagIf_eq_update (s : State) (f : Flag) (c : Bool) :
    s.flagIf f c = s.update [.flags (flagWhen f c)] := by
  cases c <;> rfl

theorem flagWhen_allowed {f : Flag} (hf : f ∈ flagsOf i) (c : Bool) (d : Context) :
    (Update.flags (flagWhen f c)).Allowed i d := by
  cases c with
  | false => exact fun _ h => absurd h List.not_mem_nil
  | true => exact fun g hg => List.mem_singleton.1 hg ▸ hf

/-- A command that ends with a flag and a write of `x[rd]`. -/
theorem Steady.setX {rd : XReg} {f : Flag} {c : State → Bool} {v : State → Int}
    (hrd : xDest i = some rd) (hf : f ∈ flagsOf i)
    (hc : ∀ st b, (s.vary st b).cur = s.cur → c (s.vary st b) = c s)
    (hv : ∀ st b, (s.vary st b).cur = s.cur → v (s.vary st b) = v s) :
    Steady i s fun s => .ok ((s.flagIf f (c s)).setX rd (v s)) := by
  refine .ok [.flags (flagWhen f (c s)), .xreg rd (v s)] ?_ fun st b hcur => ?_
  · simpa using ⟨flagWhen_allowed hf (c s) s.cur, hrd⟩
  · rw [hc st b hcur, hv st b hcur, flagIf_eq_update]
    rfl

/-- A command that lays a run of bits at `WP` and advances it. -/
theorem Steady.layBits {w : Nat} {bs : State → List Bool} (hbm : writesBm i = true)
    (hwp : ∀ c d : Context, c.writtenBy i d = { c with wp := d.wp })
    (hbs : ∀ st b, (s.vary st b).cur = s.cur → bs (s.vary st b) = bs s) :
    Steady i s fun s => if inRange s.cur.wp.toNat w s.params.bmBits then
      .ok ((s.writeBits s.cur.wp.toNat (bs s)).advanceWp w) else .error .bmRange := by
  refine .range (fun st b hcur => by rw [hcur]; rfl) (.ok
    [.bits s.cur.wp.toNat (bs s),
      .context { s.cur with wp := BitVec.ofNat 32 (s.cur.wp.toNat + w) }] ?_ fun st b hcur => ?_)
  · simp [Update.Allowed, hbm, hwp]
  · have hwrite : ((s.vary st b).writeBits s.cur.wp.toNat (bs s)).cur = s.cur := hcur
    rw [hcur, hbs st b hcur, State.advanceWp, hwrite]
    rfl

theorem steady_packBody (ra : XReg) (signed : Bool) (wm1 : BitVec 6) :
    Steady (.pack ra signed wm1) s (packBody ra signed wm1) := by
  refine .after (body := fun s => packField (widthOf wm1) (s.xval ra) s)
    [.flags (flagWhen .fovf (!packFits signed (widthOf wm1) (s.xreg ra)))] ?_ rfl ?_ ?_
  · simpa using flagWhen_allowed (by simp [flagsOf]) _ _
  · rintro _ ⟨st, b, rfl, _⟩
    exact flagIf_eq_update _ _ _
  · exact .layBits rfl (fun _ _ => rfl) fun _ _ _ => rfl

theorem steady_packField (wm1 : BitVec 4) (imm : BitVec 16) :
    Steady (.packi wm1 imm) s (packField (widthOf wm1) imm.toNat) :=
  .layBits rfl (fun _ _ => rfl) fun _ _ _ => rfl

theorem steady_crcput : Steady .crcput s fun s => packField 24 s.cur.crcr.toNat s :=
  .layBits rfl (fun _ _ => rfl) fun _ _ hcur => by rw [hcur]

theorem steady_packspBody (w : BitVec 16) : Steady (.packsp w) s (packspBody w.toNat) :=
  .check (fun _ _ _ => Iff.rfl) (.layBits rfl (fun _ _ => rfl) fun _ _ _ => rfl)

/-- A value in semicircles always fits: π exceeds 1, so no flag is raised (R184). -/
theorem fxDiv_qval_pi (s : State) (qa : QReg) :
    fxDiv (s.qval qa) Config.piQ = pure (fdiv (s.qval qa * Config.one) Config.piQ) := by
  have hlow : -(2 ^ 127) ≤ s.qval qa := BitVec.le_toInt (s.q[qa.toNat]'qa.isLt)
  have hhigh : s.qval qa < 2 ^ 127 := BitVec.toInt_lt (x := s.q[qa.toNat]'qa.isLt)
  have hpi : Config.piQ = 0x3243F6A8885A308D3 := rfl
  have hone : Config.one = 0x10000000000000000 := rfl
  have hquot : fdiv (s.qval qa * Config.one) Config.piQ = s.qval qa * Config.one / Config.piQ :=
    Int.fdiv_eq_ediv_of_nonneg _ (by decide)
  rw [fxDiv, if_neg (by decide), hquot, hpi, hone]
  exact fxReduce_of_fits _ (by omega) (by omega)

/-- The operand of `QSCALE` is found without a flag. -/
theorem scaleOperand_qval (s : State) (qa : QReg) (sc : Bool) :
    ∃ v, scaleOperand (s.qval qa) sc = pure v := by
  cases sc with
  | false => exact ⟨_, rfl⟩
  | true => exact ⟨_, fxDiv_qval_pi s qa⟩

theorem steady_qscaleBody (rd : XReg) (qa : QReg) (k : BitVec 7) (sc : Bool) :
    Steady (.qscale rd qa k sc) s (qscaleBody rd qa k sc) := by
  obtain ⟨v, hv⟩ := scaleOperand_qval s qa sc
  refine .ok [.flags (flagWhen .fovf (!fitsS 64 (scaledRaw v k.toInt))),
    .xreg rd (scaledRaw v k.toInt)] ?_ fun st b _ => ?_
  · simpa using ⟨flagWhen_allowed (by simp [flagsOf]) _ _, rfl⟩
  · have hval : (s.vary st b).qval qa = s.qval qa := rfl
    rw [hval, hv, flagIf_eq_update]
    rfl

theorem steady_pwlqBody (rd ra : XReg) (up : Bool) :
    Steady (.pwlq rd ra up) s (pwlqBody rd ra up) :=
  .check (fun _ _ _ => Iff.rfl) (.check (fun _ _ _ => Iff.rfl)
    (.setX rfl (by simp [flagsOf]) (fun _ _ _ => rfl) fun _ _ _ => rfl))

theorem steady_selsigBody (ra : XReg) : Steady (.selsig ra) s (selsigBody ra) := by
  refine .check (fun _ _ _ => Iff.rfl) (.check (fun _ _ _ => Iff.rfl) (.ok
    [.context { s.cur with sigt := BitVec.ofNat 16 (s.xval ra), sigv := 1 }] ?_ fun st b hcur => ?_))
  · simp [Update.Allowed, Context.writtenBy]
  · rw [hcur]; rfl

theorem steady_crc24Body (ra rb : XReg) (cont : Bool) :
    Steady (.crc24 ra rb cont) s (crc24Body ra rb cont) := by
  refine .range (fun _ _ _ => Iff.rfl) (.ok [.context { s.cur with
    crcr := crcBits s.crcPoly (if cont then s.cur.crcr else 0) (s.bits (s.xval ra) (s.xval rb)) }]
    ?_ fun st b hcur => ?_)
  · simp [Update.Allowed, Context.writtenBy]
  · rw [hcur]; rfl


theorem steady_convBody (rd ra rb : XReg) (keep : Bool) :
    Steady (.conv rd ra rb keep) s (convBody rd ra rb keep) := by
  let r := convRun s.cur.convcfg (if keep then s.cur.csr else 0) (s.bits (s.xval ra) (s.xval rb))
  refine .range (fun _ _ _ => Iff.rfl) (.ok
    [.context { s.cur with csr := r.1 }, .bits (s.xval rd) r.2] ?_ fun st b hcur => ?_)
  · simp [Update.Allowed, Context.writtenBy, writesBm]
  · rw [hcur]; rfl

theorem steady_ilvwBody (ra rb : XReg) : Steady (.ilvw ra rb) s (ilvwBody ra rb) := by
  refine .check (fun st b hcur => by rw [hcur]) (.range (fun _ _ _ => Iff.rfl) (.ok
    [.context { s.cur with
      istore := ringWrite (ilvSize s.cur.ilvcfg) s.cur.iwr.toNat (s.bits (s.xval ra) (s.xval rb))
        s.cur.istore
      iwr := BitVec.ofNat 11 ((s.cur.iwr.toNat + s.xval rb) % ilvSize s.cur.ilvcfg) }]
    ?_ fun st b hcur => ?_))
  · simp [Update.Allowed, Context.writtenBy]
  · rw [hcur]; rfl

theorem interleaved_vary {st : BitVec 8} {b : Memory Context} (hcur : (s.vary st b).cur = s.cur)
    (n : Nat) : (s.vary st b).interleaved n = s.interleaved n := by
  simp only [State.interleaved, State.istoreBit, hcur]
  rfl

theorem steady_ilvrBody (rd rb : XReg) : Steady (.ilvr rd rb) s (ilvrBody rd rb) := by
  refine .check (fun st b hcur => by rw [hcur]) (.range (fun _ _ _ => Iff.rfl) (.ok
    [.context { s.cur with
      ird := BitVec.ofNat 11 ((s.cur.ird.toNat + s.xval rb) % ilvSize s.cur.ilvcfg) },
      .bits (s.xval rd) (s.interleaved (s.xval rb))] ?_ fun st b hcur => ?_))
  · simp [Update.Allowed, Context.writtenBy, writesBm]
  · rw [hcur, interleaved_vary hcur]; rfl

theorem steady_clearFec : Steady .fecrst s fun s => .ok s.clearFec := by
  refine .ok [.context { s.cur with csr := 0, iwr := 0, ird := 0, crcr := 0 }] ?_ fun st b hcur => ?_
  · simp [Update.Allowed, Context.writtenBy]
  · rw [State.clearFec, hcur]; rfl

theorem steady_t2bBody (rd ra : XReg) : Steady (.t2b rd ra) s (t2bBody rd ra) := by
  refine .check (fun st b hcur => by rw [hcur]; rfl) (.setX rfl (by simp [flagsOf]) ?_ ?_)
  · intro st b hcur; rw [hcur]; rfl
  · intro st b hcur; rw [hcur]; rfl

theorem steady_seekBody (ra : XReg) : Steady (.seek ra) s (seekBody ra) := by
  refine .check (fun st b hcur => by rw [hcur])
    (.ok [.context (s.cur.seekTo (s.xval ra))] ?_ fun st b hcur => ?_)
  · simp [Update.Allowed, Context.writtenBy, Context.seekTo]
  · rw [hcur]; rfl

/-- Going one page part on writes the cursor only (R203). -/
theorem Context.advance_eq_writtenBy (c : Context) : c.advance = c.writtenBy .adv c.advance := by
  unfold Context.advance
  split
  · rfl
  · split
    · rfl
    · split <;> rfl

theorem steady_advBody : Steady .adv s advBody := by
  refine .check (fun st b hcur => by rw [hcur]) (.ok [.context s.cur.advance] ?_ fun st b hcur => ?_)
  · simpa [Update.Allowed] using s.cur.advance_eq_writtenBy
  · rw [hcur]; rfl

theorem steady_wtype (rd : XReg) : Steady (.wtype rd) s fun s => .ok (s.setX rd s.wordType) := by
  refine .ok [.xreg rd s.wordType] (by simp [Update.Allowed, xDest]) fun st b hcur => ?_
  rw [State.wordType, State.pftEntry, hcur]
  rfl

theorem steady_almidx (rd : XReg) :
    Steady (.almidx rd) s fun s => .ok (s.setX rd (s.aitEntry s.cur.sf.toNat).toNat) := by
  refine .ok [.xreg rd (s.aitEntry s.cur.sf.toNat).toNat] (by simp [Update.Allowed, xDest])
    fun st b hcur => ?_
  rw [State.aitEntry, hcur]
  rfl

theorem steady_bcopyBody (rd ra rb : XReg) : Steady (.bcopy rd ra rb) s (bcopyBody rd ra rb) :=
  .range (fun _ _ _ => Iff.rfl) (.ok [.bits (s.xval rd) (s.bits (s.xval ra) (s.xval rb))]
    (by simp [Update.Allowed, writesBm]) fun _ _ _ => rfl)

theorem steady_tileBody (rd ra rb rc re : XReg) :
    Steady (.tile rd ra rb rc re) s (tileBody rd ra rb rc re) :=
  .check (fun _ _ _ => Iff.rfl) (.range (fun _ _ _ => Iff.rfl) (.ok
    [.bits (s.xval rd) (s.tileBits (s.xval ra) (s.xval rb) (s.xval rc) (s.xval re))]
    (by simp [Update.Allowed, writesBm]) fun _ _ _ => rfl))

section
variable {st : BitVec 8} {b : Memory Context} (hcur : (s.vary st b).cur = s.cur)
include hcur

theorem noSignal_vary : (s.vary st b).noSignal = s.noSignal := by
  rw [State.noSignal, hcur]; rfl

theorem modConfigBad_vary : (s.vary st b).modConfigBad = s.modConfigBad := by
  rw [State.modConfigBad, hcur]; rfl

theorem modJob_vary (t0 : Int) : (s.vary st b).modJob t0 = s.modJob t0 := by
  rw [State.modJob, hcur]; rfl

end

theorem steady_modBody (rd ra rb : XReg) : Steady (.mod rd ra rb) s (modBody rd ra rb) := by
  refine .check (fun st b hcur => by rw [noSignal_vary hcur]) <|
    .check (fun st b hcur => by rw [modConfigBad_vary hcur]) <|
    .check (fun st b hcur => by rw [hcur]; rfl) <|
    .check (fun st b hcur => ?_) <|
    .check (fun _ _ _ => Iff.rfl) <|
    .check (fun st b hcur => ?_) <|
    .ok [.samples (s.xval rd) ((List.range (s.xval rb)).map (modSample s (s.modJob (s.xint ra))))]
      (by simp [Update.Allowed, writesSm]) fun st b hcur => ?_
  · rw [hcur, modJob_vary hcur]; rfl
  · rw [hcur, modJob_vary hcur]; rfl
  · rw [modJob_vary hcur]; rfl

theorem steady_modofsBody (rd : XReg) : Steady (.modofs rd) s (modofsBody rd) := by
  refine .check (fun st b hcur => by rw [noSignal_vary hcur]) (.check (fun _ _ _ => Iff.rfl)
    (.setX rfl (by simp [flagsOf]) ?_ ?_))
  · intro st b hcur; rw [hcur]; rfl
  · intro st b hcur; rw [hcur]; rfl

end
end Sys2Proof.Machine

/-! What every command can do, and the frames that follow: contexts, `STATUS`, registers. -/

namespace Sys2Proof.Machine

/-- How a command executed in `s` ends: refused in a faulted context (R296), with a fault that the current
context records (R295), or completed with the updates its rule allows (R291). -/
inductive Completes (i : Instr) (s : State) : List Update → BitVec 8 → Prop
  | refused (h : s.cur.fsr ≠ 0) : Completes i s [] ctxFaultedCode
  | fault (h : s.cur.fsr = 0) (e : Cause) (w : Word) :
      Completes i s [.context (s.cur.withRecord e.code w)] e.code
  | done {us : List Update} (h : ∀ u ∈ us, u.Allowed i s.cur) : Completes i s us 0

/-- From every state alike `s` the outcome is that of the same updates and the same status. -/
def Settled (i : Instr) (s : State) (f : State → State) : Prop :=
  ∃ us code, Completes i s us code ∧ ∀ s', Alike s s' → f s' = (s'.update us).setLastst code

section
variable {i : Instr} {s : State}

theorem Steady.runCommand {body : State → Except Cause State} (h : Steady i s body) (w : Word) :
    Settled i s fun s => s.runCommand w body := by
  by_cases hfsr : s.cur.fsr = 0
  · have hclear : ∀ s', Alike s s' → s'.cur.fsr = 0 := fun s' ⟨_, _, _, hcur⟩ => hcur ▸ hfsr
    rcases h with ⟨e, hb⟩ | ⟨us, hus, hb⟩
    · refine ⟨_, _, .fault hfsr e w, fun s' hs => ?_⟩
      obtain ⟨_, _, _, hcur⟩ := id hs
      calc s'.runCommand w body = s'.enterFault e w := State.runCommand_error (hclear s' hs) (hb s' hs)
        _ = (s'.setCur (s'.cur.withRecord e.code w)).setLastst e.code := by
          simp [State.enterFault, State.faulted, hclear s' hs, Context.withRecord]
        _ = (s'.setCur (s.cur.withRecord e.code w)).setLastst e.code := by rw [hcur]
    · exact ⟨us, 0, .done hus, fun s' hs => State.runCommand_ok (hclear s' hs) (hb s' hs)⟩
  · refine ⟨[], _, .refused hfsr, ?_⟩
    rintro s' ⟨_, _, _, hcur⟩
    exact State.runCommand_faulted (hcur ▸ hfsr) w body

theorem settled_runExempt {body : State → State} (us : List Update)
    (h : ∀ u ∈ us, u.Allowed i s.cur) (hb : ∀ s', Alike s s' → body s' = s'.update us) :
    Settled i s fun s => s.runExempt body :=
  ⟨us, 0, .done h, fun s' hs => congrArg (State.setLastst · 0) (hb s' hs)⟩

theorem settled_ctxclr :
    Settled .ctxclr s fun s => s.runExempt fun s => s.clearFault.clearSignal.clearFec := by
  let cleared := { s.cur with fsr := 0, finfo := 0 }
  let idle := { cleared with sigt := 0, sigv := 0 }
  refine settled_runExempt [.context cleared, .context idle,
    .context { idle with csr := 0, iwr := 0, ird := 0, crcr := 0 }] ?_ ?_
  · simp [Update.Allowed, Context.writtenBy, cleared, idle]
  · rintro s' ⟨_, _, _, hcur⟩
    simp only [State.clearFault, State.clearSignal, State.clearFec, State.cur_setCur, hcur]
    rfl

theorem settled_kepler (qd qa qb : QReg) : Settled (.kepler qd qa qb) s fun s => s.runExempt fun s =>
    let r := (kepler (s.qval qa) (s.qval qb)).run s.status
    ((s.setStatus r.2).setQ qd r.1.1).setKiter r.1.2 := by
  have huniform : Uniform (flagsOf (.kepler qd qa qb)) (kepler (s.qval qa) (s.qval qb)) :=
    uniform_kepler (by simp [flagsOf]) (by simp [flagsOf]) (by simp [flagsOf]) _ _
  obtain ⟨v, d, hd, hrun⟩ := huniform
  refine settled_runExempt [.flags d, .qreg qd v.1, .kiter v.2] ?_ ?_
  · simpa [Update.Allowed, qDests, writesKiter] using hd
  · rintro _ ⟨st, b, rfl, _⟩
    have hrun' : (kepler ((s.vary st b).qval qa) ((s.vary st b).qval qb)).run (s.vary st b).status =
        (v, addFlags d st) := hrun st
    rw [hrun']
    rfl

theorem settled_prop (ra rb : XReg) : Settled (.prop ra rb) s fun s => s.runExempt fun s =>
    let r := (propagate s.elements (s.xint ra) (s.xint rb) s.tickHz.toNat).run s.status
    (s.setStatus r.2).storeOrbit r.1 := by
  have huniform : Uniform (flagsOf (.prop ra rb))
      (propagate s.elements (s.xint ra) (s.xint rb) s.tickHz.toNat) :=
    uniform_propagate (by simp [flagsOf]) (by simp [flagsOf]) (by simp [flagsOf]) (by simp [flagsOf])
      _ _ _ _
  obtain ⟨o, d, hd, hrun⟩ := huniform
  refine settled_runExempt [.flags d, .qreg 16 o.px, .qreg 17 o.py, .qreg 18 o.pz, .qreg 19 o.vx,
    .qreg 20 o.vy, .qreg 21 o.vz, .qreg 22 o.ea, .qreg 23 o.tk, .kiter o.it] ?_ ?_
  · simpa [Update.Allowed, qDests, writesKiter] using hd
  · rintro _ ⟨st, b, rfl, _⟩
    have hrun' : (propagate (s.vary st b).elements ((s.vary st b).xint ra) ((s.vary st b).xint rb)
        (s.vary st b).tickHz.toNat).run (s.vary st b).status = (o, addFlags d st) := hrun st
    rw [hrun']
    rfl

theorem settled_reldly (qd : QReg) : Settled (.reldly qd) s fun s => s.runExempt fun s =>
    let r := (relativisticDelay (s.qval 0) (s.qval 1) (s.qval 22) (s.qval 24) (s.qval 26)).run s.status
    (s.setStatus r.2).setQ qd r.1 := by
  have huniform : Uniform (flagsOf (.reldly qd))
      (relativisticDelay (s.qval 0) (s.qval 1) (s.qval 22) (s.qval 24) (s.qval 26)) :=
    uniform_relativisticDelay (by simp [flagsOf]) (by simp [flagsOf]) _ _ _ _ _
  obtain ⟨v, d, hd, hrun⟩ := huniform
  refine settled_runExempt [.flags d, .qreg qd v] ?_ ?_
  · simpa [Update.Allowed, qDests] using hd
  · rintro _ ⟨st, b, rfl, _⟩
    have hrun' : (relativisticDelay ((s.vary st b).qval 0) ((s.vary st b).qval 1)
        ((s.vary st b).qval 22) ((s.vary st b).qval 24) ((s.vary st b).qval 26)).run
          (s.vary st b).status = (v, addFlags d st) := hrun st
    rw [hrun']
    rfl

end

/-- What a command can do: make a list of updates that is the same from every state it cannot tell from `s`,
and complete with the same status. -/
theorem exec_settled (i : Instr) (s : State) :
    ∃ us code, Completes i s us code ∧
      ∀ s', Alike s s' → exec i s' = .next ((s'.update us).setLastst code) := by
  suffices h : ∃ f, Settled i s f ∧ ∀ s', exec i s' = .next (f s') by
    obtain ⟨f, ⟨us, code, hc, hf⟩, he⟩ := h
    exact ⟨us, code, hc, fun s' hs => (he s').trans (congrArg _ (hf s' hs))⟩
  cases i with
  | nop => exact ⟨_, settled_runExempt [] (by simp) fun _ _ => rfl, fun _ => rfl⟩
  | ctxclr => exact ⟨_, settled_ctxclr, fun _ => rfl⟩
  | selsig ra => exact ⟨_, (steady_selsigBody ra).runCommand _, fun _ => rfl⟩
  | fecrst => exact ⟨_, steady_clearFec.runCommand _, fun _ => rfl⟩
  | pack ra signed wm1 => exact ⟨_, (steady_packBody ra signed wm1).runCommand _, fun _ => rfl⟩
  | packi wm1 imm => exact ⟨_, (steady_packField wm1 imm).runCommand _, fun _ => rfl⟩
  | packsp w => exact ⟨_, (steady_packspBody w).runCommand _, fun _ => rfl⟩
  | qscale rd qa k sc => exact ⟨_, (steady_qscaleBody rd qa k sc).runCommand _, fun _ => rfl⟩
  | pwlq rd ra up => exact ⟨_, (steady_pwlqBody rd ra up).runCommand _, fun _ => rfl⟩
  | crc24 ra rb cont => exact ⟨_, (steady_crc24Body ra rb cont).runCommand _, fun _ => rfl⟩
  | crcput => exact ⟨_, steady_crcput.runCommand _, fun _ => rfl⟩
  | conv rd ra rb keep => exact ⟨_, (steady_convBody rd ra rb keep).runCommand _, fun _ => rfl⟩
  | ilvw ra rb => exact ⟨_, (steady_ilvwBody ra rb).runCommand _, fun _ => rfl⟩
  | ilvr rd rb => exact ⟨_, (steady_ilvrBody rd rb).runCommand _, fun _ => rfl⟩
  | t2b rd ra => exact ⟨_, (steady_t2bBody rd ra).runCommand _, fun _ => rfl⟩
  | seek ra => exact ⟨_, (steady_seekBody ra).runCommand _, fun _ => rfl⟩
  | adv => exact ⟨_, steady_advBody.runCommand _, fun _ => rfl⟩
  | wtype rd => exact ⟨_, (steady_wtype rd).runCommand _, fun _ => rfl⟩
  | almidx rd => exact ⟨_, (steady_almidx rd).runCommand _, fun _ => rfl⟩
  | bcopy rd ra rb => exact ⟨_, (steady_bcopyBody rd ra rb).runCommand _, fun _ => rfl⟩
  | tile rd ra rb rc re => exact ⟨_, (steady_tileBody rd ra rb rc re).runCommand _, fun _ => rfl⟩
  | mod rd ra rb => exact ⟨_, (steady_modBody rd ra rb).runCommand _, fun _ => rfl⟩
  | modofs rd => exact ⟨_, (steady_modofsBody rd).runCommand _, fun _ => rfl⟩
  | kepler qd qa qb => exact ⟨_, settled_kepler qd qa qb, fun _ => rfl⟩
  | prop ra rb => exact ⟨_, settled_prop ra rb, fun _ => rfl⟩
  | reldly qd => exact ⟨_, settled_reldly qd, fun _ => rfl⟩

section
variable {i : Instr} {s : State} {us : List Update} {code : BitVec 8} (h : Completes i s us code)
include h

theorem Completes.raised_subset : ∀ f ∈ us.flatMap Update.raised, f ∈ flagsOf i := by
  cases h with
  | refused | fault => exact fun _ hf => absurd hf List.not_mem_nil
  | done hus => exact Machine.raised_subset hus

theorem Completes.xreg {r : XReg} (hr : xDest i ≠ some r) : (s.update us).xreg r = s.xreg r := by
  cases h with
  | refused | fault => rfl
  | done hus => exact State.xreg_update hus hr s

theorem Completes.qval {r : QReg} (hr : r ∉ qDests i) : (s.update us).qval r = s.qval r := by
  cases h with
  | refused | fault => rfl
  | done hus => exact State.qval_update hus hr s

theorem Completes.kiter (hi : writesKiter i = false) : (s.update us).kiter = s.kiter := by
  cases h with
  | refused | fault => rfl
  | done hus => exact State.kiter_update hus hi s

/-- But for the record of a fault the current context is written by its writers only. -/
theorem Completes.cur :
    (s.update us).cur = (s.cur.writtenBy i (s.update us).cur).withRecord
      (s.update us).cur.fsr (s.update us).cur.finfo := by
  cases h with
  | refused =>
    have hsame : (s.update []).cur = s.cur := rfl
    rw [hsame, Context.writtenBy_self, Context.withRecord_self]
  | fault hfsr e w =>
    have hcur : (s.update [.context (s.cur.withRecord e.code w)]).cur = s.cur.withRecord e.code w :=
      State.cur_setCur s _
    rw [hcur]
    exact s.cur.withRecord_eq_writtenBy i e.code w
  | done hus => rw [← State.cur_update hus, Context.withRecord_self]

/-- The record of a context changes by `CTXCLR`, and by a fault where there was none. -/
theorem Completes.record (hi : i ≠ .ctxclr) (hcode : code = 0 ∨ code = 8 ∨ s.cur.fsr ≠ 0) :
    (s.update us).cur.fsr = s.cur.fsr ∧ (s.update us).cur.finfo = s.cur.finfo := by
  cases h with
  | refused => exact ⟨rfl, rfl⟩
  | fault hfsr e w =>
    rcases hcode with h0 | h8 | hne
    exacts [absurd h0 e.code_ne.1, absurd h8 e.code_ne.2, absurd hfsr hne]
  | done hus =>
    rw [State.cur_update hus]
    exact s.cur.writtenBy_record _ hi

end

/-! ### The obligations -/

/-- Settles O21: the updates a command makes do not depend on the other contexts, and reach none of them. -/
theorem contextIsolation : Obligations.ContextIsolation := by
  intro i s other hother
  obtain ⟨us, code, -, hexec⟩ := exec_settled i s
  have halike := alike_banks hother
  obtain ⟨_, _, _, hcur⟩ := halike.update us
  obtain ⟨b, hb⟩ := s.update_banks other us
  refine ⟨_, _, hexec s (.refl s), hexec _ halike, ?_, hcur, s.update_sameOthers us,
    State.update_sameOthers _ us⟩
  rw [hb]
  rfl

/-- Settles O22: the updates a command makes do not depend on `STATUS`, and add flags to it. -/
theorem statusStickyAndNeverRead : Obligations.StatusStickyAndNeverRead := by
  intro i s
  obtain ⟨us, code, hc, hexec⟩ := exec_settled i s
  refine ⟨(s.update us).setLastst code, us.flatMap Update.raised, hc.raised_subset, fun st => ?_⟩
  calc exec i (s.setStatus st) = .next (((s.setStatus st).update us).setLastst code) :=
        hexec _ (alike_setStatus s st)
    _ = .next (((s.update us).setStatus (addFlags (us.flatMap Update.raised) st)).setLastst code) := by
        rw [State.update_setStatus]

/-- Settles O23: each register is written by the updates its writers are allowed only; a fault writes its
record, which a context that holds none can take. -/
theorem registerWriters : Obligations.RegisterWriters := by
  intro i s t ht
  obtain ⟨us, code, hc, hexec⟩ := exec_settled i s
  obtain rfl : (s.update us).setLastst code = t :=
    Host.Outcome.next.inj ((hexec s (.refl s)).symm.trans ht)
  obtain ⟨htick, hmaxtt, hpoly, hspare, hsplen, hqtn⟩ := s.update_config us
  exact ⟨fun _ => hc.xreg, fun _ => hc.qval, s.update_ctx us, htick, hmaxtt, hpoly, hspare, hsplen,
    hqtn, hc.kiter, hc.cur, hc.record⟩

end Sys2Proof.Machine

/-! Which transactions are refused, and what the host reads after reset. -/

namespace Sys2Proof.Machine

/-- Settles O9: the two registers with a write rule of their own. -/
theorem statusAndCtxWrites : Obligations.StatusAndCtxWrites := by
  intro s v
  exact ⟨rfl, fun h => if_pos h, fun h => if_neg h⟩

/-! ### Register numbers -/

/-- The numbers of the components lie in four groups of eight of which five are used (R41). -/
theorem numberListed_iff (n : Nat) : numberListed n ↔
    n ≤ 0x00F ∨ (0x020 ≤ n ∧ n ≤ 0x04A) ∨ (0x080 ≤ n ∧ n ≤ 0x084) ∨ (0x088 ≤ n ∧ n ≤ 0x08E) ∨
      (0x090 ≤ n ∧ n ≤ 0x097) ∨ (0x0A0 ≤ n ∧ n ≤ 0x0A2) ∨ (0x0A4 ≤ n ∧ n ≤ 0x0AB) ∨
      (0x0B0 ≤ n ∧ n < 0x0D0 ∧ (n - 0x0B0) % 8 < 5) := by
  have hgroup : (∃ k, k < 4 ∧ 0x0B0 + 8 * k ≤ n ∧ n ≤ 0x0B4 + 8 * k) ↔
      0x0B0 ≤ n ∧ n < 0x0D0 ∧ (n - 0x0B0) % 8 < 5 := by
    constructor
    · rintro ⟨k, hk, hlow, hhigh⟩
      omega
    · rintro ⟨hlow, hhigh, hfield⟩
      exact ⟨(n - 0x0B0) / 8, by omega, by omega, by omega⟩
  rw [numberListed, hgroup]

theorem isSome_componentReg (k : Fin 4) (f : Nat) : (componentReg k f).isSome = true ↔ f < 5 := by
  unfold componentReg
  split
  case h_6 => simp only [imp_false] at *; simp; omega
  all_goals simp

/-- A number names a register exactly when a table of 10_state.md lists it (R55). -/
theorem isSome_ofNumber_iff (n : Nat) : (Reg.ofNumber n).isSome = true ↔ numberListed n := by
  rw [numberListed_iff, Reg.ofNumber.eq_def]
  split
  · simp; omega
  split
  · simp; omega
  split
  · rw [isSome_componentReg]; omega
  · split
    case h_43 => simp only [imp_false] at *; simp; omega
    all_goals simp

/-! ### Refused transactions -/

section
variable (s : State) (n : Nat) (sp : Space) (a : Nat)

/-- An access to a register is refused exactly when no table lists its number (R55). -/
theorem perform_regRead_refused_iff :
    perform (.regRead n) s = .refused (.undefinedRegister n) ↔ ¬ numberListed n := by
  rw [← isSome_ofNumber_iff]
  cases hr : Reg.ofNumber n with
  | none => simp [perform, hr]
  | some r => simp [perform_regRead hr]

theorem perform_regWrite_refused_iff (v : BitVec 128) :
    perform (.regWrite n v) s = .refused (.undefinedRegister n) ↔ ¬ numberListed n := by
  rw [← isSome_ofNumber_iff]
  cases hr : Reg.ofNumber n with
  | none => simp [perform, hr]
  | some r => simp [perform_regWrite hr]

/-- The elements that do not exist (R85, R92). -/
theorem elementDefined_eq_false_iff (p : Params) :
    elementDefined p sp a = false ↔ Params.size p sp ≤ a ∨ (sp = .scat ∧ 6 ≤ a % 8) := by
  rw [← Bool.not_eq_true, elementDefined_iff, not_and_or, Classical.not_imp, Nat.not_lt, Nat.not_lt]

/-- An access to an element is refused exactly when there is none (R92). -/
theorem perform_spaceRead_refused_iff :
    perform (.spaceRead sp a) s = .refused (.undefinedElement sp a) ↔
      Params.size s.params sp ≤ a ∨ (sp = .scat ∧ 6 ≤ a % 8) := by
  rw [← elementDefined_eq_false_iff]
  cases hdef : elementDefined s.params sp a <;> simp [perform, hdef]

theorem perform_spaceWrite_refused_iff (u : BitVec 64) :
    perform (.spaceWrite sp a u) s = .refused (.undefinedElement sp a) ↔
      Params.size s.params sp ≤ a ∨ (sp = .scat ∧ 6 ≤ a % 8) := by
  rw [← elementDefined_eq_false_iff]
  cases hdef : elementDefined s.params sp a <;> simp [perform, hdef]

end

/-- Settles O10: each of the four accesses is refused where its number or index is undefined. -/
theorem undefinedTransactionsRefused : Obligations.UndefinedTransactionsRefused := by
  intro s rest n v sp a u
  refine ⟨fun hp => ?_, fun hp => ?_, fun hp => ?_, fun hp => ?_⟩ <;> rw [step_of_pending hp]
  · exact perform_regRead_refused_iff _ n
  · exact perform_regWrite_refused_iff _ n v
  · exact perform_spaceRead_refused_iff _ sp a
  · exact perform_spaceWrite_refused_iff _ sp a u

/-! ### The reset state -/

/-- Every context is at its reset values after reset, those that do not exist too. -/
theorem bank_resetWith (p : Params) (n k : Nat) : (State.resetWith p n).bank k = Context.reset := by
  unfold State.bank
  cases hc : (State.resetWith p n).banks.get? k with
  | none => rfl
  | some c =>
    obtain ⟨j, _, hj⟩ := List.mem_map.1 (Memory.mem_of_get? hc)
    exact (Prod.mk.inj hj).2.symm

section
variable (p : Params) (n : Nat) (k : BitVec 16)

theorem cur_resetWith :
    State.cur { State.resetWith p n with ctx := k } = Context.reset :=
  bank_resetWith p n k.toNat

/-- Every register reads 0 after reset but `ID` and `SPLEN` (R56, R321). -/
theorem readReg_resetWith {r : Reg} (hr : r ≠ .ctx) :
    State.readReg { State.resetWith p n with ctx := k } r =
      if r = .id then 0x53473207 else if r = .splen then 1 else 0 := by
  have hcur := cur_resetWith p n k
  cases r
  case ctx => exact absurd rfl hr
  case x i => simp [State.readReg, State.xreg, State.resetWith]
  case q i => simp [State.readReg, State.resetWith]
  case cb j | cl j | sb j | sl j | ds j =>
    simp [State.readReg, hcur, Context.reset, Component.reset]
  case nb j | nk j | nc j | brm j =>
    cases j <;> simp [State.readReg, hcur, Context.reset, NavStream.reset, Context.stream]
  case id | status | tickHz | maxtt | crcPoly | spare | splen | kiter | lastst | qtn => rfl
  all_goals simp only [State.readReg, hcur]; rfl

end

/-! ### Elements after reset -/

/-- The low `w` bits of a value, zero-extended. -/
theorem setWidth_setWidth_eq_ofNat {n : Nat} (v : BitVec n) (w m : Nat) :
    (v.setWidth w).setWidth m = BitVec.ofNat m (v.toNat % 2 ^ w) := by
  apply BitVec.eq_of_toNat_eq
  simp

theorem setWidth_lowBits {n : Nat} {w : Nat} (hw : w ≤ 32) (v : BitVec n) :
    (lowBits w v).setWidth 128 = BitVec.ofNat 128 (v.toNat % 2 ^ w) := by
  have hlt : v.toNat % 2 ^ w < 2 ^ 32 :=
    (Nat.mod_lt _ (Nat.two_pow_pos w)).trans_le (Nat.pow_le_pow_right (by decide) hw)
  apply BitVec.eq_of_toNat_eq
  simp only [lowBits, BitVec.toNat_setWidth, BitVec.toNat_ofNat, Nat.mod_eq_of_lt hlt]

/-- The low bits of a free value that a 32-bit cell holds are its own low bits. -/
theorem setWidth_lowBits_setWidth {w : Nat} (hw : w ≤ 32) (v : BitVec 64) :
    (lowBits w (v.setWidth 32)).setWidth 128 = BitVec.ofNat 128 (v.toNat % 2 ^ w) := by
  rw [setWidth_lowBits hw, BitVec.toNat_setWidth, Nat.mod_mod_of_dvd _ (Nat.pow_dvd_pow 2 hw)]

theorem qtWidth_le (f : Nat) : qtWidth f ≤ 32 := by
  unfold qtWidth
  split <;> decide

theorem scatWidth_le (f : Nat) : scatWidth f ≤ 32 := by
  unfold scatWidth
  split <;> decide

theorem ofBool_getLsbD_zero {n : Nat} (v : BitVec n) :
    (BitVec.ofBool (v.getLsbD 0)).setWidth 128 = BitVec.ofNat 128 (v.toNat % 2 ^ 1) := by
  rcases Nat.mod_two_eq_zero_or_one v.toNat with h | h
  · simp [BitVec.getLsbD, Nat.testBit_zero, h]
  · simp [BitVec.getLsbD, Nat.testBit_zero, h]

theorem extractLsb'_append_halves (v : BitVec 64) : v.extractLsb' 32 32 ++ v.extractLsb' 0 32 = v := by
  rw [BitVec.extractLsb'_append_extractLsb'_eq_extractLsb' (by rfl)]
  exact BitVec.extractLsb'_eq_self

/-- Every element holds its free value after reset (R99). -/
theorem readSpace_resetWith (p : Params) (n : Nat) (k : BitVec 16) (sp : Space) (a : Nat) :
    State.readSpace { State.resetWith p n with ctx := k } sp a =
      BitVec.ofNat 128 ((Config.powerOn n sp
        (if sp = .istore ∨ sp = .pft ∨ sp = .ait then k.toNat else 0) a).toNat %
          2 ^ elementWidth sp a) := by
  have hcur := cur_resetWith p n k
  cases sp with
  | bm => exact ofBool_getLsbD_zero _
  | cm => exact setWidth_setWidth_eq_ofNat (Config.powerOn n .cm 0 a) 16 128
  | sm =>
    have hwhole := setWidth_setWidth_eq_ofNat (Config.powerOn n .sm 0 a) 64 128
    rw [BitVec.setWidth_eq] at hwhole
    exact (congrArg (BitVec.setWidth 128) (extractLsb'_append_halves _)).trans hwhole
  | istore =>
    simp only [State.readSpace, State.istoreBit, hcur]
    exact ofBool_getLsbD_zero _
  | pft =>
    simp only [State.readSpace, State.pftEntry, hcur]
    exact setWidth_setWidth_eq_ofNat (Config.powerOn n .pft k.toNat a) 16 128
  | ait =>
    simp only [State.readSpace, State.aitEntry, hcur]
    exact setWidth_setWidth_eq_ofNat (Config.powerOn n .ait k.toNat a) 8 128
  | qt => exact setWidth_lowBits_setWidth (qtWidth_le _) (Config.powerOn n .qt 0 a)
  | scat => exact setWidth_lowBits_setWidth (scatWidth_le _) (Config.powerOn n .scat 0 a)

/-- Settles O12: every context, existing or not, is at its reset values, and nothing is written. -/
theorem resetValues : Obligations.ResetValues :=
  fun p n k _ => ⟨rfl, readReg_resetWith p n k, readSpace_resetWith p n k⟩

end Sys2Proof.Machine

/-! What a register write stores, and that it leaves every other register, element and context. -/

namespace Sys2Proof.Machine

/-- A value cut down to a register with reserved bits reads as the bits of the mask. -/
theorem setWidth_and_mask {n : Nat} (v : BitVec 128) (m : BitVec n) :
    (v.setWidth n &&& m).setWidth 128 = v &&& m.setWidth 128 := by
  ext i hi
  by_cases hn : i < n
  · simp [hi, hn]
  · simp [hi, hn, BitVec.getLsbD_of_ge m i (by omega)]

theorem ofNat_toNat_mod {n : Nat} (v : BitVec n) : BitVec.ofNat n (v.toNat % 2 ^ n) = v := by
  apply BitVec.eq_of_toNat_eq
  simp

/-- What replacing a component does to each component. -/
theorem Context.getElem_comp_setComp (c : Context) (k j : Fin 4) (v : Component) :
    (c.setComp k v).comp[j] = if j = k then v else c.comp[j] := by
  simp [Context.setComp, Vector.getElem_set, Fin.ext_iff, eq_comm]

/-- A register that takes writes reads as what was stored (R54). -/
theorem readReg_writeReg_self (s : State) (v : BitVec 128) {r : Reg} (hro : r.readOnly = false)
    (hctx : r ≠ .ctx) (hst : r ≠ .status) : (s.writeReg v r).readReg r = Reg.stored v r := by
  cases r
  case ctx => exact absurd rfl hctx
  case status => exact absurd rfl hst
  case id | kiter | lastst | sigt | sigv | fsr | finfo => cases hro
  case x i =>
    simp only [State.writeReg, State.readReg, State.xreg, Vector.getElem_set_self]
    exact setWidth_setWidth_eq_ofNat v 64 128
  case q i =>
    simp only [State.writeReg, State.readReg, Vector.getElem_set_self]
    exact (ofNat_toNat_mod v).symm
  case tickHz | maxtt | crcPoly | spare | splen | qtn => exact setWidth_setWidth_eq_ofNat v _ 128
  case convcfg =>
    simp only [State.writeReg, State.readReg, State.cur_setCur]
    exact setWidth_and_mask v convcfgMask
  case ilvcfg =>
    simp only [State.writeReg, State.readReg, State.cur_setCur]
    exact setWidth_and_mask v ilvcfgMask
  case nb n | nk n | nc n | brm n =>
    cases n <;> simp only [State.writeReg, State.readReg, State.cur_setCur] <;>
      exact setWidth_setWidth_eq_ofNat v _ 128
  case cb k | cl k | sb k | sl k | ds k =>
    simp only [State.writeReg, State.readReg, State.cur_setCur, Context.getElem_comp_setComp, if_true]
    exact setWidth_setWidth_eq_ofNat v _ 128
  all_goals
    simp only [State.writeReg, State.readReg, State.cur_setCur]
    exact setWidth_setWidth_eq_ofNat v _ 128

/-- The registers of which each context has its own, as the tables of R41 list them. -/
def Reg.banked : Reg → Bool
  | .x _ | .q _ | .id | .ctx | .status | .tickHz | .maxtt | .crcPoly | .spare | .splen | .kiter
  | .lastst | .qtn => false
  | _ => true

theorem readReg_of_cur_eq {s t : State} (h : t.cur = s.cur) {r : Reg} (hr : r.banked = true) :
    t.readReg r = s.readReg r := by
  cases r
  case x | q | id | ctx | status | tickHz | maxtt | crcPoly | spare | splen | kiter | lastst | qtn =>
    cases hr
  all_goals simp only [State.readReg, h]

theorem readReg_setCur_of_not_banked (s : State) (c : Context) {r : Reg} (hr : r.banked = false) :
    (s.setCur c).readReg r = s.readReg r := by
  cases r
  case x | q | id | ctx | status | tickHz | maxtt | crcPoly | spare | splen | kiter | lastst | qtn =>
    rfl
  all_goals cases hr

section
variable (s : State) (v : BitVec 128) {r r' : Reg}

/-- A write to a register of the block leaves the other ones. -/
theorem readReg_writeReg_of_not_banked (hctx : r ≠ .ctx) (hr : r.banked = false)
    (hr' : r'.banked = false) (hne : r' ≠ r) : (s.writeReg v r).readReg r' = s.readReg r' := by
  cases r
  case ctx => exact absurd rfl hctx
  case x i =>
    cases r'
    case x j =>
      have hij : i.toNat ≠ j.toNat := fun h => hne (congrArg Reg.x (BitVec.eq_of_toNat_eq h).symm)
      exact congrArg (BitVec.setWidth 128) (Vector.getElem_set_ne i.isLt j.isLt hij)
    all_goals rfl
  case q i =>
    cases r'
    case q j =>
      have hij : i.toNat ≠ j.toNat := fun h => hne (congrArg Reg.q (BitVec.eq_of_toNat_eq h).symm)
      exact Vector.getElem_set_ne i.isLt j.isLt hij
    all_goals rfl
  case id | kiter | lastst => rfl
  case status | tickHz | maxtt | crcPoly | spare | splen | qtn =>
    cases r'
    case x | q | id | ctx | status | tickHz | maxtt | crcPoly | spare | splen | kiter | lastst
        | qtn =>
      all_goals try contradiction
      all_goals rfl
    all_goals cases hr'
  all_goals cases hr

/-- A write to a register of the current context leaves the other ones of that context: in each pair the two
are the same register, which `hne` excludes, or different fields of the context. -/
theorem readReg_writeReg_of_banked (hr : r.banked = true) (hr' : r'.banked = true) (hne : r' ≠ r) :
    (s.writeReg v r).readReg r' = s.readReg r' := by
  cases r
  case x | q | id | ctx | status | tickHz | maxtt | crcPoly | spare | splen | kiter | lastst | qtn =>
    cases hr
  case sigt | sigv | fsr | finfo => rfl
  case nb n | nk n | nc n | brm n =>
    cases n
    all_goals
      cases r'
      case nb m | nk m | nc m | brm m =>
        cases m
        all_goals try contradiction
        all_goals
          simp only [State.writeReg, State.readReg, State.cur_setCur]
          rfl
      all_goals simp only [State.writeReg, State.readReg, State.cur_setCur] <;> rfl
  case cb k | cl k | sb k | sl k | ds k =>
    cases r'
    case cb j | cl j | sb j | sl j | ds j =>
      simp only [State.writeReg, State.readReg, State.cur_setCur, Context.getElem_comp_setComp]
      by_cases hj : j = k
      · subst hj
        all_goals try contradiction
        all_goals simp
      · simp [hj]
    all_goals
      simp only [State.writeReg, State.readReg, State.cur_setCur] <;> rfl
  case wp | br | ppb | npp | pgs | sfs | convcfg | ilvcfg | sf | pg | pp | boff | csr | iwr | ird
      | crcr | spc | mflags | ncomp =>
    cases r'
    all_goals try contradiction
    all_goals simp only [State.writeReg, State.readReg, State.cur_setCur] <;> rfl

/-- A write to a register of the current context replaces that context, its tables kept. -/
theorem writeReg_eq_setCur (hro : r.readOnly = false) (hr : r.banked = true) :
    ∃ c, s.writeReg v r = s.setCur c ∧ c.istore = s.cur.istore ∧ c.pft = s.cur.pft ∧
      c.ait = s.cur.ait := by
  cases r
  case x | q | id | ctx | status | tickHz | maxtt | crcPoly | spare | splen | kiter | lastst | qtn =>
    cases hr
  case sigt | sigv | fsr | finfo => cases hro
  case nb n | nk n | nc n | brm n => cases n <;> exact ⟨_, rfl, rfl, rfl, rfl⟩
  all_goals exact ⟨_, rfl, rfl, rfl, rfl⟩

/-- A write to a register of the block leaves the contexts and the memory spaces. -/
theorem writeReg_keeps_banks (hctx : r ≠ .ctx) (hr : r.banked = false) :
    (s.writeReg v r).cur = s.cur ∧ (∀ sp a, (s.writeReg v r).readSpace sp a = s.readSpace sp a) ∧
      sameOthers s (s.writeReg v r) := by
  cases r
  case ctx => exact absurd rfl hctx
  case x | q | id | status | tickHz | maxtt | crcPoly | spare | splen | kiter | lastst | qtn =>
    exact ⟨rfl, fun _ _ => rfl, fun _ _ => rfl⟩
  all_goals cases hr

theorem readSpace_setCur {c : Context} (histore : c.istore = s.cur.istore)
    (hpft : c.pft = s.cur.pft) (hait : c.ait = s.cur.ait) (sp : Space) (a : Nat) :
    (s.setCur c).readSpace sp a = s.readSpace sp a := by
  cases sp with
  | bm | cm | sm | qt | scat => rfl
  | istore => simp only [State.readSpace, State.istoreBit, State.cur_setCur, histore]; rfl
  | pft => simp only [State.readSpace, State.pftEntry, State.cur_setCur, hpft]; rfl
  | ait => simp only [State.readSpace, State.aitEntry, State.cur_setCur, hait]; rfl

/-- A write to a register leaves every other one (R54). -/
theorem readReg_writeReg_of_ne (hro : r.readOnly = false) (hctx : r ≠ .ctx) (hne : r' ≠ r) :
    (s.writeReg v r).readReg r' = s.readReg r' := by
  cases hr : r.banked <;> cases hr' : r'.banked
  · exact readReg_writeReg_of_not_banked s v hctx hr hr' hne
  · exact readReg_of_cur_eq (writeReg_keeps_banks s v hctx hr).1 hr'
  · obtain ⟨c, hc, -⟩ := writeReg_eq_setCur s v hro hr
    rw [hc, readReg_setCur_of_not_banked s c hr']
  · exact readReg_writeReg_of_banked s v hr hr' hne

/-- A write to a register leaves every element of every space, and every other context (R54). -/
theorem writeReg_frame (hro : r.readOnly = false) (hctx : r ≠ .ctx) :
    (∀ sp a, (s.writeReg v r).readSpace sp a = s.readSpace sp a) ∧
      sameOthers s (s.writeReg v r) := by
  cases hr : r.banked with
  | false => exact (writeReg_keeps_banks s v hctx hr).2
  | true =>
    obtain ⟨c, hc, histore, hpft, hait⟩ := writeReg_eq_setCur s v hro hr
    rw [hc]
    exact ⟨readSpace_setCur s histore hpft hait,
      fun k hk => (State.bank_setCur s c k).trans (if_neg hk)⟩

theorem writeReg_readOnly (hro : r.readOnly = true) : s.writeReg v r = s := by
  cases r
  case id | kiter | lastst | sigt | sigv | fsr | finfo => rfl
  all_goals cases hro

end

/-- Settles O8: the register reads as stored, and every other register, element and context is kept. -/
theorem regWriteReads : Obligations.RegWriteReads := by
  intro s v r
  refine ⟨writeReg_readOnly s v, fun hro hctx hst => ?_, fun hv => ?_⟩
  · obtain ⟨hspaces, hothers⟩ := writeReg_frame s v hro hctx
    exact ⟨readReg_writeReg_self s v hro hctx hst,
      fun r' hne => readReg_writeReg_of_ne s v hro hctx hne, hspaces, hothers⟩
  · rw [State.writeReg_ctx, if_neg (Nat.not_lt.2 hv)]

end Sys2Proof.Machine

/-! The orbit commands: what KEPLER and PROP write, and that nothing else changes. -/

namespace Sys2Proof.Machine

theorem wrapped_of_le_pi {v : Int} (h : -Config.piQ + 1 ≤ v ∧ v ≤ Config.piQ) : Wrapped v := by
  obtain ⟨hlow, hhigh⟩ := h
  have hpi : Config.piQ = 0x3243F6A8885A308D3 := rfl
  exact wrapS_of_fits v (by omega) (by omega)

/-- An iteration count fits `KITER` (R33). -/
theorem toNat_ofNat_of_le_maxit {it : Nat} (h : it ≤ Config.maxit) : (BitVec.ofNat 8 it).toNat = it := by
  have hmax : Config.maxit = 64 := rfl
  rw [BitVec.toNat_ofNat, Nat.mod_eq_of_lt (by omega)]

theorem exec_kepler (s : State) (qd qa qb : QReg) {ea : Int} {it : Nat} {st : BitVec 8}
    (h : (kepler (s.qval qa) (s.qval qb)).run s.status = ((ea, it), st)) :
    exec (.kepler qd qa qb) s =
      .next ((((s.setStatus st).setQ qd ea).setKiter it).setLastst 0) := by
  simp only [exec, execKepler, State.runExempt, h]

/-- Settles O46: the iteration ends with a wrapped angle after 1 to 64 steps, whatever the operands. -/
theorem keplerResult : Obligations.KeplerResult := by
  intro s qd qa qb
  have hensures := ensures_kepler (s.qval qa) (s.qval qb) s.status
  obtain ⟨⟨⟨ea, it⟩, st⟩, hrun⟩ : ∃ r, (kepler (s.qval qa) (s.qval qb)).run s.status = r := ⟨_, rfl⟩
  rw [hrun] at hensures ⊢
  obtain ⟨⟨hlow, hhigh⟩, hone, hmax⟩ := hensures
  have hq (r : QReg) : State.qval ((((s.setStatus st).setQ qd ea).setKiter it).setLastst 0) r =
      if r = qd then ea else s.qval r :=
    (State.qval_setQ (s.setStatus st) qd ea r).trans
      (by rw [wrapped_of_le_pi ⟨hlow, hhigh⟩]; rfl)
  have hqd := (hq qd).trans (if_pos rfl)
  have hk := toNat_ofNat_of_le_maxit hmax
  refine ⟨_, exec_kepler s qd qa qb hrun, ⟨rfl, fun r hr => (hq r).trans (if_neg hr)⟩, fun _ => ?_⟩
  exact ⟨hqd, hk, rfl, hone.trans_eq hk.symm, hk.trans_le hmax, hlow.trans_eq hqd.symm,
    hqd.trans_le hhigh⟩

/-- The signed value of the low 128 bits, written out (R9). -/
theorem wrapS_eq (v : Int) : wrapS 128 v = (v + 2 ^ 127) % 2 ^ 128 - 2 ^ 127 := by
  rw [wrapS, Int.bmod_def]
  split <;> omega

/-- `TK` and `TOASOW`, and the flags they set (R155). -/
theorem run_propTime (t toa : Int) (hz : Nat) (st : BitVec 8) :
    let quotient := Int.fdiv ((t - toa) * 2 ^ 64) hz
    (propTime t toa hz).run st =
      ((if (hz : Int) = 0 then 0 else (quotient + 2 ^ 127) % 2 ^ 128 - 2 ^ 127,
        if (hz : Int) = 0 then 0 else Int.fdiv (toa % (604800 * hz) * 2 ^ 64) hz),
        if (hz : Int) = 0 then st ||| 4
        else flagged (quotient < -(2 ^ 127) ∨ 2 ^ 127 ≤ quotient) .qovf st) := by
  intro quotient
  by_cases h : hz = 0
  · subst h
    rfl
  · have hhz : (hz : Int) ≠ 0 := Int.natCast_ne_zero.2 h
    have hflag : raiseIf .qovf (!fitsS 128 quotient) st =
        flagged (quotient < -(2 ^ 127) ∨ 2 ^ 127 ≤ quotient) .qovf st :=
      raiseIf_eq_flagged .qovf _ _ st (by
        rw [Bool.not_eq_true', ← Bool.not_eq_true, fitsS_iff, not_and_or, Int.not_le, Int.not_lt])
    rw [propTime, if_neg h, if_neg hhz, if_neg hhz, if_neg hhz, ← hflag, ← wrapS_eq]
    rfl

/-- What PROP computes once its times are known: R156 to R160. -/
def propagateFrom (el : Elements) (tk toasow : Int) : FxM OrbitState := do
  let mm ← propMean el tk
  let p ← propPlane el mm
  let r ← propRotate el tk toasow p
  let (vx, vy, vz) ← propVelocity el mm p r
  pure { px := r.px, py := r.py, pz := r.pz, vx := vx, vy := vy, vz := vz, ea := mm.ea, tk := tk,
         it := mm.it }

theorem propagate_eq (el : Elements) (t toa : Int) (hz : Nat) :
    propagate el t toa hz = propTime t toa hz >>= fun p => propagateFrom el p.1 p.2 := rfl

/-- The duration is the one the propagation began with (R160). -/
theorem ensures_propagateFrom (el : Elements) (tk toasow : Int) :
    Ensures (propagateFrom el tk toasow) fun o => o.tk = tk :=
  (ensures_true _).bind fun _ _ => (ensures_true _).bind fun _ _ => (ensures_true _).bind fun _ _ =>
    (ensures_true _).bind fun _ _ => ensures_pure rfl

/-- The state PROP leaves when the propagation yields `o` and leaves `STATUS` at `st`. -/
def State.afterProp (s : State) (st : BitVec 8) (o : OrbitState) : State :=
  ((s.setStatus st).storeOrbit o).setLastst 0

theorem exec_prop (s : State) (ra rb : XReg) {o : OrbitState} {st : BitVec 8}
    (h : (propagate s.elements (s.xint ra) (s.xint rb) s.tickHz.toNat).run s.status = (o, st)) :
    exec (.prop ra rb) s = .next (s.afterProp st o) := by
  simp only [exec, execProp, State.runExempt, State.afterProp, h]

/-- PROP changes fixed-point registers, `KITER` and `STATUS` only (R160). -/
theorem State.afterProp_frame (s : State) (st : BitVec 8) (o : OrbitState) :
    s.afterProp st o = { s with
      q := (s.afterProp st o).q, kiter := (s.afterProp st o).kiter
      status := (s.afterProp st o).status, lastst := 0 } := by
  simp only [State.afterProp, State.storeOrbit, State.setStatus, State.setQ, State.setKiter,
    State.setLastst]

theorem State.qval_afterProp (s : State) (st : BitVec 8) (o : OrbitState) (r : QReg) :
    (s.afterProp st o).qval r = ((s.setStatus st).storeOrbit o).qval r := by
  simp only [State.qval, State.afterProp, State.setLastst_q]

theorem State.kiter_afterProp (s : State) (st : BitVec 8) (o : OrbitState) :
    (s.afterProp st o).kiter = BitVec.ofNat 8 o.it := by
  simp only [State.afterProp, State.storeOrbit, State.setLastst_kiter, State.setKiter_kiter]

theorem State.status_afterProp (s : State) (st : BitVec 8) (o : OrbitState) :
    (s.afterProp st o).status = st := by
  simp only [State.afterProp, State.storeOrbit, State.setLastst_status, State.setKiter_status,
    State.setQ_status, State.setStatus_status]

/-- Settles O47: PROP runs R155 for its times, then R156 to R159 operation by operation. -/
theorem propResult : Obligations.PropResult := by
  intro s ra rb
  obtain ⟨⟨o, st⟩, hrun⟩ : ∃ r, r =
    (propagate s.elements (s.xint ra) (s.xint rb) s.tickHz.toNat).run s.status := ⟨_, rfl⟩
  have hensures := ensures_propagate s.elements (s.xint ra) (s.xint rb) s.tickHz.toNat s.status
  rw [← hrun] at hensures
  obtain ⟨hfits, hea, -, hit⟩ := hensures
  refine ⟨_, exec_prop s ra rb hrun.symm, s.afterProp_frame st o, fun r hr => ?_, fun _ => ?_⟩
  · rw [State.qval_afterProp]
    exact State.qval_storeOrbit_of_other (s.setStatus st) o r hr
  intro pi wrapped hz epoch toa sqrtA ecc i0 idot omega0 omegadot w m0 dn sqrtGm omegaE quotient tk
    toasow flags orbit result
  have horbit : propagateFrom s.elements tk toasow = orbit := by
    simp only [propagateFrom, propMean, propPlane, propRotate, propVelocity, bind_assoc, pure_bind,
      orbit]
    rfl
  have hresult : (o, st) = result := by
    have htime := run_propTime (s.xint ra) (s.xint rb) s.tickHz.toNat s.status
    rw [hrun, propagate_eq, StateT.run_bind, htime]
    exact congrArg (StateT.run · flags) horbit
  have htk : result.1.tk = tk := by
    have h := ensures_propagateFrom s.elements tk toasow flags
    rwa [horbit] at h
  clear_value result
  subst hresult
  obtain ⟨hpx, hpy, hpz, hvx, hvy, hvz, hE, hTk⟩ :=
    State.storeOrbit_results (s.setStatus st) o hfits (wrapped_of_le_pi hea)
  simp only [← State.qval_afterProp] at hpx hpy hpz hvx hvy hvz hE hTk
  refine ⟨hpx, hpy, hpz, hvx, hvy, hvz, hE, hTk.trans htk, ?_, ?_, ?_, ?_⟩
  · rw [State.kiter_afterProp]
    exact toNat_ofNat_of_le_maxit hit
  · exact s.status_afterProp st o
  · exact hea.1.trans_eq hE.symm
  · exact hE.trans_le hea.2

end Sys2Proof.Machine

/-! What a write to a memory space stores, what it leaves, and which element each read names. -/

namespace Sys2Proof.Machine

/-! ### The space written -/

theorem Memory.getD_get?_put {α : Type} (m : Memory α) (a : Nat) (v : α) (k : Nat) (d : α) :
    ((m.put a v).get? k).getD d = if k = a then v else (m.get? k).getD d := by
  rw [Memory.get?_put]
  split <;> rfl

theorem lowBits_lowBits {n w : Nat} (hw : w ≤ 32) (v : BitVec n) :
    lowBits w (lowBits w v) = lowBits w v := by
  have hlt : v.toNat % 2 ^ w < 2 ^ 32 :=
    (Nat.mod_lt _ (Nat.two_pow_pos w)).trans_le (Nat.pow_le_pow_right (by decide) hw)
  apply BitVec.eq_of_toNat_eq
  simp only [lowBits, BitVec.toNat_setWidth, Nat.mod_eq_of_lt hlt, Nat.mod_mod]

section
variable (s : State) (a : Nat) (v : BitVec 64) (k : Nat)

/-! Each element of the space a write goes to: the one written, and the others as they were. -/

theorem bit_writeSpace :
    (s.writeSpace .bm a v).bit k = if k = a then v.getLsbD 0 else s.bit k :=
  Memory.getD_get?_put s.bm a _ k _

theorem codeWord_writeSpace :
    (s.writeSpace .cm a v).codeWord k = if k = a then v.setWidth 16 else s.codeWord k :=
  Memory.getD_get?_put s.cm a _ k _

theorem sample_writeSpace :
    (s.writeSpace .sm a v).sample k =
      if k = a then { i := v.extractLsb' 32 32, q := v.extractLsb' 0 32 } else s.sample k :=
  Memory.getD_get?_put s.sm a _ k _

theorem istoreBit_writeSpace :
    (s.writeSpace .istore a v).istoreBit k = if k = a then v.getLsbD 0 else s.istoreBit k := by
  simp only [State.istoreBit, State.writeSpace, State.cur_setCur, Memory.getD_get?_put]
  rfl

theorem pftEntry_writeSpace :
    (s.writeSpace .pft a v).pftEntry k = if k = a then v.setWidth 16 else s.pftEntry k := by
  simp only [State.pftEntry, State.writeSpace, State.cur_setCur, Memory.getD_get?_put]
  rfl

theorem aitEntry_writeSpace :
    (s.writeSpace .ait a v).aitEntry k = if k = a then v.setWidth 8 else s.aitEntry k := by
  simp only [State.aitEntry, State.writeSpace, State.cur_setCur, Memory.getD_get?_put]
  rfl

theorem qtElement_writeSpace :
    (s.writeSpace .qt a v).qtElement k =
      if k = a then lowBits (qtWidth (a % 4)) v else s.qtElement k := by
  simp only [State.qtElement, State.writeSpace, Memory.getD_get?_put]
  split
  · next hk => rw [hk, lowBits_lowBits (qtWidth_le _)]
  · rfl

theorem scatElement_writeSpace :
    (s.writeSpace .scat a v).scatElement k =
      if k = a then lowBits (scatWidth (a % 8)) v else s.scatElement k := by
  simp only [State.scatElement, State.writeSpace, Memory.getD_get?_put]
  split
  · next hk => rw [hk, lowBits_lowBits (scatWidth_le _)]
  · rfl

/-- A write to a space is read back as the low bits of its value, at its own element only (R90). -/
theorem readSpace_writeSpace_same (sp : Space) :
    (s.writeSpace sp a v).readSpace sp k =
      if k = a then BitVec.ofNat 128 (v.toNat % 2 ^ elementWidth sp a) else s.readSpace sp k := by
  cases sp with
  | bm =>
    rw [State.readSpace, bit_writeSpace, apply_ite BitVec.ofBool, apply_ite (BitVec.setWidth 128)]
    exact congrArg (ite _ · _) (ofBool_getLsbD_zero v)
  | istore =>
    rw [State.readSpace, istoreBit_writeSpace, apply_ite BitVec.ofBool,
      apply_ite (BitVec.setWidth 128)]
    exact congrArg (ite _ · _) (ofBool_getLsbD_zero v)
  | cm =>
    rw [State.readSpace, codeWord_writeSpace, apply_ite (BitVec.setWidth 128)]
    exact congrArg (ite _ · _) (setWidth_setWidth_eq_ofNat v 16 128)
  | pft =>
    rw [State.readSpace, pftEntry_writeSpace, apply_ite (BitVec.setWidth 128)]
    exact congrArg (ite _ · _) (setWidth_setWidth_eq_ofNat v 16 128)
  | ait =>
    rw [State.readSpace, aitEntry_writeSpace, apply_ite (BitVec.setWidth 128)]
    exact congrArg (ite _ · _) (setWidth_setWidth_eq_ofNat v 8 128)
  | qt =>
    rw [State.readSpace, qtElement_writeSpace, apply_ite (BitVec.setWidth 128)]
    exact congrArg (ite _ · _) (setWidth_lowBits (qtWidth_le _) v)
  | scat =>
    rw [State.readSpace, scatElement_writeSpace, apply_ite (BitVec.setWidth 128)]
    exact congrArg (ite _ · _) (setWidth_lowBits (scatWidth_le _) v)
  | sm =>
    have hwhole := setWidth_setWidth_eq_ofNat v 64 128
    rw [BitVec.setWidth_eq] at hwhole
    rw [State.readSpace, sample_writeSpace]
    split
    · rw [extractLsb'_append_halves]
      exact hwhole
    · rfl

end

/-! ### Everything else -/

section
variable (s : State) (m : Memory Bool) (p : Memory (BitVec 16)) (t : Memory (BitVec 8))

/-- The state with other tables in its current context (R84, R85). -/
def State.withTables : State := s.setCur { s.cur with istore := m, pft := p, ait := t }

theorem State.cur_withTables :
    (s.withTables m p t).cur = { s.cur with istore := m, pft := p, ait := t } :=
  State.cur_setCur s _

theorem readReg_withTables (r : Reg) : (s.withTables m p t).readReg r = s.readReg r := by
  cases hr : r.banked with
  | false => exact readReg_setCur_of_not_banked s _ hr
  | true =>
    cases r
    case x | q | id | ctx | status | tickHz | maxtt | crcPoly | spare | splen | kiter | lastst | qtn =>
      cases hr
    case nb n | nk n | nc n | brm n =>
      cases n <;> simp only [State.readReg, State.cur_withTables] <;> rfl
    all_goals simp only [State.readReg, State.cur_withTables]

theorem sameOthers_withTables : sameOthers s (s.withTables m p t) :=
  fun k hk => (State.bank_setCur s _ k).trans (if_neg hk)

end

section
variable (s : State) (sp : Space) (a : Nat) (v : BitVec 64)

/-- A write to a space leaves every register and every other context (R90). -/
theorem writeSpace_frame : (∀ r, (s.writeSpace sp a v).readReg r = s.readReg r) ∧
    sameOthers s (s.writeSpace sp a v) := by
  cases sp with
  | istore | pft | ait => exact ⟨readReg_withTables s _ _ _, sameOthers_withTables s _ _ _⟩
  | bm | cm | sm | qt | scat => exact ⟨fun r => by cases r <;> rfl, fun _ _ => rfl⟩

/-- A write to a space leaves every other space. -/
theorem readSpace_writeSpace_of_ne {sp' : Space} (h : sp' ≠ sp) (k : Nat) :
    (s.writeSpace sp a v).readSpace sp' k = s.readSpace sp' k := by
  cases sp' with
  | istore | pft | ait =>
    cases sp with
    | istore | pft | ait =>
      all_goals try contradiction
      all_goals
        simp only [State.readSpace, State.istoreBit, State.pftEntry, State.aitEntry, State.writeSpace,
          State.cur_setCur]
        rfl
    | bm | cm | sm | qt | scat => rfl
  | bm | cm | sm | qt | scat =>
    cases sp
    all_goals try contradiction
    all_goals rfl

end

/-! ### The element a read names -/

section
variable (s : State) (a : Nat)

theorem toNat_setWidth_ofBool (b : Bool) : ((BitVec.ofBool b).setWidth 128).toNat = b.toNat := by
  cases b <;> rfl

theorem toNat_readSpace_sm :
    (s.readSpace .sm a).toNat = (s.sample a).i.toNat * 2 ^ 32 + (s.sample a).q.toNat := by
  rw [State.readSpace, BitVec.toNat_setWidth_of_le (by decide), BitVec.toNat_append,
    ← Nat.shiftLeft_add_eq_or_of_lt (s.sample a).q.isLt, Nat.shiftLeft_eq]

theorem toNat_readSpace_qt : (s.readSpace .qt a).toNat = (s.qtElement a).toNat :=
  BitVec.toNat_setWidth_of_le (by decide)

theorem toNat_readSpace_scat : (s.readSpace .scat a).toNat = (s.scatElement a).toNat :=
  BitVec.toNat_setWidth_of_le (by decide)

/-- VALID is one bit, so an entry whose VALID is not 0 has it 1 (R85). -/
theorem scatElement_valid_ne_zero_iff :
    s.scatElement (8 * a) ≠ 0 ↔ s.readSpace .scat (8 * a) = 1 := by
  have hlt : (s.scatElement (8 * a)).toNat < 2 ^ scatWidth (8 * a % 8) := lowBits_toNat_lt _ _
  rw [Nat.mul_mod_right] at hlt
  have hbit : (s.scatElement (8 * a)).toNat < 2 := hlt
  have hread : s.readSpace .scat (8 * a) = 1 ↔ (s.scatElement (8 * a)).toNat = 1 := by
    rw [← toNat_readSpace_scat]
    exact BitVec.toNat_inj.symm
  have hzero : s.scatElement (8 * a) = 0 ↔ (s.scatElement (8 * a)).toNat = 0 := BitVec.toNat_inj.symm
  rw [hread, ne_eq, hzero]
  omega

end

/-- Settles O11: a write reaches one element of one space, and the reads of the host name the elements the
commands read. -/
theorem spaceWriteReads : Obligations.SpaceWriteReads := by
  intro s sp a v
  obtain ⟨hregs, hothers⟩ := writeSpace_frame s sp a v
  refine ⟨(readSpace_writeSpace_same s a v a sp).trans (if_pos rfl), fun sp' a' hne => ?_, hregs,
    hothers, toNat_setWidth_ofBool _, rfl, toNat_readSpace_sm s a, toNat_setWidth_ofBool _, rfl, rfl,
    ?_, ?_⟩
  · by_cases hsp : sp' = sp
    · subst hsp
      exact (readSpace_writeSpace_same s a v a' sp').trans
        (if_neg (hne.resolve_left (not_not_intro rfl)))
    · exact readSpace_writeSpace_of_ne s sp a v hsp a'
  · simp only [State.segment, toNat_readSpace_qt]
  · simp only [State.catalog, toNat_readSpace_scat, scatElement_valid_ne_zero_iff]

end Sys2Proof.Machine

/-! When a command completes with the status of a cause, and when a range of BM is that cause. -/

namespace Sys2Proof.Machine

theorem Cause.code_inj {c e : Cause} : c.code = e.code ↔ c = e := by
  cases c <;> cases e <;> decide

/-- A command of a context that is not faulted completes with the code of a cause exactly when its checks
name that cause (R291). -/
theorem completion_eq_code_iff {i : Instr} {s : State} {c : Cause}
    {body : State → Except Cause State} (h : s.cur.fsr = 0)
    (he : exec i s = .next (s.runCommand (encode i) body)) :
    completion i s = some c.code ↔ body s = .error c := by
  cases hb : body s with
  | ok t =>
    have hne : (0 : BitVec 8) ≠ c.code := c.code_ne.1.symm
    simpa [completion, he, State.runCommand_ok h hb] using hne
  | error e => simp [completion, he, State.runCommand_error h hb, Cause.code_inj]

/-- A range check before an effect names its cause exactly when it fails. -/
theorem range_eq_error {c : Prop} [Decidable c] {e : Cause} {t : State} :
    (if c then .ok t else .error e : Except Cause State) = .error e ↔ ¬ c := by
  by_cases h : c <;> simp [h]

section
variable (s : State)

theorem packField_eq_bmRange_iff (w v : Nat) :
    packField w v s = .error .bmRange ↔ s.params.bmBits < s.cur.wp.toNat + w := by
  rw [packField, range_eq_error, inRange_iff, Nat.not_le]

theorem packBody_eq_bmRange_iff (ra : XReg) (signed : Bool) (wm1 : BitVec 6) :
    packBody ra signed wm1 s = .error .bmRange ↔
      s.params.bmBits < s.cur.wp.toNat + (wm1.toNat + 1) :=
  packField_eq_bmRange_iff (s.flagIf .fovf (!packFits signed (widthOf wm1) (s.xreg ra)))
    (widthOf wm1) (s.xval ra)

theorem packspBody_eq_bmRange_iff (hlow : 1 ≤ s.splen.toNat) (hhigh : s.splen.toNat ≤ 64) (w : Nat) :
    packspBody w s = .error .bmRange ↔ s.params.bmBits < s.cur.wp.toNat + w := by
  have hlegal : ¬ (decide (s.splen.toNat < 1) || decide (64 < s.splen.toNat)) = true := by
    simp only [Bool.or_eq_true, decide_eq_true_eq]
    omega
  rw [packspBody, if_neg hlegal, range_eq_error, inRange_iff, Nat.not_le]

theorem crc24Body_eq_bmRange_iff (ra rb : XReg) (cont : Bool) :
    crc24Body ra rb cont s = .error .bmRange ↔ s.params.bmBits < s.xval ra + s.xval rb := by
  rw [crc24Body, range_eq_error, inRange_iff, Nat.not_le]

theorem convBody_eq_bmRange_iff (rd ra rb : XReg) (keep : Bool) :
    convBody rd ra rb keep s = .error .bmRange ↔
      s.params.bmBits < s.xval ra + s.xval rb ∨ s.params.bmBits < s.xval rd + 2 * s.xval rb := by
  rw [convBody, range_eq_error, Bool.and_eq_true, inRange_iff, inRange_iff, not_and_or, Nat.not_le,
    Nat.not_le]

theorem ilvwBody_eq_bmRange_iff (hlegal : ¬ interleaverIllegal s.cur) (ra rb : XReg) :
    ilvwBody ra rb s = .error .bmRange ↔ s.params.bmBits < s.xval ra + s.xval rb := by
  rw [ilvwBody, if_neg (mt (badInterleaver_iff _).1 hlegal), range_eq_error, inRange_iff, Nat.not_le]

theorem ilvrBody_eq_bmRange_iff (hlegal : ¬ interleaverIllegal s.cur) (rd rb : XReg) :
    ilvrBody rd rb s = .error .bmRange ↔ s.params.bmBits < s.xval rd + s.xval rb := by
  rw [ilvrBody, if_neg (mt (badInterleaver_iff _).1 hlegal), range_eq_error, inRange_iff, Nat.not_le]

theorem bcopyBody_eq_bmRange_iff (rd ra rb : XReg) :
    bcopyBody rd ra rb s = .error .bmRange ↔
      s.params.bmBits < s.xval ra + s.xval rb ∨ s.params.bmBits < s.xval rd + s.xval rb := by
  rw [bcopyBody, range_eq_error, Bool.and_eq_true, inRange_iff, inRange_iff, not_and_or, Nat.not_le,
    Nat.not_le]

theorem State.xval_eq_zero_iff (r : XReg) : s.xval r = 0 ↔ s.xreg r = 0 :=
  (BitVec.toNat_eq (y := 0)).symm

theorem tileBody_eq_bmRange_iff (rd ra rc re : XReg) {rb : XReg} (hlen : s.xreg rb ≠ 0) :
    tileBody rd ra rb rc re s = .error .bmRange ↔
      s.params.bmBits < s.xval ra + s.xval rb ∨ s.params.bmBits < s.xval rd + s.xval re := by
  rw [tileBody, if_neg (mt (s.xval_eq_zero_iff rb).1 hlen), range_eq_error, Bool.and_eq_true,
    inRange_iff, inRange_iff, not_and_or, Nat.not_le, Nat.not_le]

end

/-- Settles O19: status 3 is the cause `BM_RANGE` of the command's checks, which past the configuration is
the failure of one of its ranges. -/
theorem bmRangeCauses : Obligations.BmRangeCauses := by
  intro s h
  have hstatus {i : Instr} {body : State → Except Cause State} {out : Prop}
      (hbody : body s = .error .bmRange ↔ out)
      (he : exec i s = .next (s.runCommand (encode i) body)) : completion i s = some 3 ↔ out :=
    (completion_eq_code_iff (c := .bmRange) h he).trans hbody
  refine ⟨fun ra sg wm1 => ?_, fun wm1 imm => ?_, fun hlow hhigh w => ?_, fun ra rb c => ?_, ?_,
    fun rd ra rb k => ?_, fun hlegal ra rb => ?_, fun hlegal rd rb => ?_, fun rd ra rb => ?_,
    fun rd ra rb rc re hlen => ?_⟩
  · exact hstatus (packBody_eq_bmRange_iff s ra sg wm1) rfl
  · exact hstatus (packField_eq_bmRange_iff s (widthOf wm1) imm.toNat) rfl
  · exact hstatus (packspBody_eq_bmRange_iff s hlow hhigh w.toNat) rfl
  · exact hstatus (crc24Body_eq_bmRange_iff s ra rb c) rfl
  · exact hstatus (packField_eq_bmRange_iff s 24 s.cur.crcr.toNat) rfl
  · exact hstatus (convBody_eq_bmRange_iff s rd ra rb k) rfl
  · exact hstatus (ilvwBody_eq_bmRange_iff s hlegal ra rb) rfl
  · exact hstatus (ilvrBody_eq_bmRange_iff s hlegal rd rb) rfl
  · exact hstatus (bcopyBody_eq_bmRange_iff s rd ra rb) rfl
  · exact hstatus (tileBody_eq_bmRange_iff s rd ra rc re hlen) rfl

end Sys2Proof.Machine

/-! Which commands write which memory spaces. -/

namespace Sys2Proof.Machine

/-! ### What the updates of a command leave of the spaces -/

theorem Update.apply_tables (u : Update) (s : State) :
    ((u.apply s).cm, (u.apply s).qt, (u.apply s).scat, (u.apply s).resets) =
      (s.cm, s.qt, s.scat, s.resets) := by
  cases u <;> rfl

/-- No command writes CM, QT or SCAT (R80), and none counts a reset. -/
theorem State.update_tables (s : State) (us : List Update) :
    (s.update us).cm = s.cm ∧ (s.update us).qt = s.qt ∧ (s.update us).scat = s.scat ∧
      (s.update us).resets = s.resets := by
  have h := update_keeps (fun s => (s.cm, s.qt, s.scat, s.resets)) (us := us)
    (fun u _ => u.apply_tables) s
  simpa only [Prod.mk.injEq] using h

section
variable {i : Instr} {c : Context} {us : List Update}

theorem State.bm_update (h : ∀ u ∈ us, u.Allowed i c) (hi : writesBm i = false) (s : State) :
    (s.update us).bm = s.bm := by
  refine update_keeps State.bm (fun u hu s => ?_) s
  have hallowed := h u hu
  cases u with
  | bits a bs =>
    have hwrites : writesBm i = true := hallowed
    simp [hi] at hwrites
  | xreg | qreg | flags | kiter | context | samples => rfl

theorem State.sm_update (h : ∀ u ∈ us, u.Allowed i c) (hi : writesSm i = false) (s : State) :
    (s.update us).sm = s.sm := by
  refine update_keeps State.sm (fun u hu s => ?_) s
  have hallowed := h u hu
  cases u with
  | samples a vs =>
    have hwrites : writesSm i = true := hallowed
    simp [hi] at hwrites
  | xreg | qreg | flags | kiter | context | bits => rfl

end

/-- No command writes PFT or AIT (R80). -/
theorem Context.writtenBy_tables (c d : Context) (i : Instr) :
    (c.writtenBy i d).pft = c.pft ∧ (c.writtenBy i d).ait = c.ait := by
  cases i <;> exact ⟨rfl, rfl⟩

/-- Only `ILVW` writes ISTORE (R84). -/
theorem Context.writtenBy_istore (c d : Context) {i : Instr} (h : writesIstore i = false) :
    (c.writtenBy i d).istore = c.istore := by
  cases i with
  | ilvw ra rb => cases h
  | _ => rfl

/-! ### What every command leaves of the spaces -/

section
variable {i : Instr} {s : State} {us : List Update} {code : BitVec 8} (h : Completes i s us code)
include h

theorem Completes.bm (hi : writesBm i = false) : (s.update us).bm = s.bm := by
  cases h with
  | refused | fault => rfl
  | done hus => exact State.bm_update hus hi s

theorem Completes.sm (hi : writesSm i = false) : (s.update us).sm = s.sm := by
  cases h with
  | refused | fault => rfl
  | done hus => exact State.sm_update hus hi s

theorem Completes.istore (hi : writesIstore i = false) :
    (s.update us).cur.istore = s.cur.istore := by
  rw [h.cur]
  exact s.cur.writtenBy_istore _ hi

theorem Completes.tables :
    (s.update us).cur.pft = s.cur.pft ∧ (s.update us).cur.ait = s.cur.ait := by
  rw [h.cur]
  exact s.cur.writtenBy_tables _ i

end

/-- Settles O24: each space is reached only by the updates its writers are allowed, and what an unwritten
element holds depends on the resets and on `CTX`, which no command changes. -/
theorem spaceWriters : Obligations.SpaceWriters := by
  intro i s t ht
  obtain ⟨us, code, hc, hexec⟩ := exec_settled i s
  obtain rfl : (s.update us).setLastst code = t :=
    Host.Outcome.next.inj ((hexec s (.refl s)).symm.trans ht)
  obtain ⟨hcm, hqt, hscat, hresets⟩ := s.update_tables us
  obtain ⟨hpft, hait⟩ := hc.tables
  have hctx := s.update_ctx us
  have hcur : ((s.update us).setLastst code).cur = (s.update us).cur := rfl
  refine ⟨fun hi a => ?_, fun hi a => ?_, fun hi k => ?_, fun a => ?_, fun k => ?_, fun k => ?_,
    fun p => ?_, fun n => ?_, s.update_sameOthers us⟩
  · simp only [State.bit, State.setLastst_bm, State.setLastst_resets, hc.bm hi, hresets]
  · simp only [State.sample, State.setLastst_sm, State.setLastst_resets, hc.sm hi, hresets]
  · simp only [State.istoreBit, State.setLastst_ctx, State.setLastst_resets, hcur, hc.istore hi,
      hresets, hctx]
  · simp only [State.codeWord, State.setLastst_cm, State.setLastst_resets, hcm, hresets]
  · simp only [State.qtElement, State.setLastst_qt, State.setLastst_resets, hqt, hresets]
  · simp only [State.scatElement, State.setLastst_scat, State.setLastst_resets, hscat, hresets]
  · simp only [State.pftEntry, State.setLastst_ctx, State.setLastst_resets, hcur, hpft, hresets, hctx]
  · simp only [State.aitEntry, State.setLastst_ctx, State.setLastst_resets, hcur, hait, hresets, hctx]

end Sys2Proof.Machine

/-! The convolutional encoder: its run over bits of BM, in the terms of the taps of each step. -/

namespace Sys2Proof.Machine

/-! ### One step -/

theorem State.bits_succ (s : State) (a n : Nat) :
    s.bits a (n + 1) = s.bit a :: s.bits (a + 1) n := by
  simp [State.bits, List.range_succ_eq_map, Function.comp_def, Nat.add_assoc, Nat.add_comm 1]

/-- `CSR` after a step: the present input, then the five most recent of before (R233). -/
theorem getLsbD_convStep (cfg : BitVec 17) (csr : BitVec 6) (u : Bool) {k : Nat} (hk : k < 6) :
    (convStep cfg csr u).1.getLsbD k = if k = 5 then u else csr.getLsbD (k + 1) := by
  simp only [convStep, convWindow, BitVec.getLsbD_extractLsb', BitVec.getLsbD_cons, hk, decide_true,
    Bool.true_and, Nat.add_comm 1 k]
  simp [show k + 1 = 6 ↔ k = 5 by omega]

/-- After one step the run goes on with taps one step further back (R233). -/
theorem convTap_convStep (s : State) (cfg : BitVec 17) (csr : BitVec 6) (src i : Nat) {back : Nat}
    (hback : back ≤ 6) :
    convTap s (convStep cfg csr (s.bit src)).1 (src + 1) i back = convTap s csr src (i + 1) back := by
  unfold convTap
  rcases Nat.lt_trichotomy back (i + 1) with hlt | rfl | hgt
  · rw [if_pos (by omega), if_pos (by omega)]
    congr 1
    omega
  · rw [if_neg (by omega), if_pos le_rfl, getLsbD_convStep _ _ _ (by omega), if_pos (by omega),
      Nat.sub_self, Nat.add_zero]
  · rw [if_neg (by omega), if_neg (by omega), getLsbD_convStep _ _ _ (by omega), if_neg (by omega)]
    congr 1
    omega

theorem convSymbol_convStep (s : State) (cfg : BitVec 17) (csr : BitVec 6) (src i : Nat)
    (mask : BitVec 7) :
    convSymbol s (convStep cfg csr (s.bit src)).1 (src + 1) i mask =
      convSymbol s csr src (i + 1) mask := by
  refine List.foldl_ext _ _ _ fun p back hback => ?_
  rw [convTap_convStep s cfg csr src i (Nat.le_of_lt_succ (List.mem_range.1 hback))]

/-- The parity of a word is that of its bits taken from the highest down. -/
theorem parity_eq_foldl_rev {n : Nat} (v : BitVec n) :
    parity v = (List.range n).foldl (fun p k => xor p (v.getLsbD (n - 1 - k))) false := by
  have hcomm : RightCommutative fun (p : Bool) k => xor p (v.getLsbD k) :=
    ⟨fun p j k => Bool.xor_right_comm p _ _⟩
  have hperm : List.Perm ((List.range n).map fun k => n - 1 - k) (List.range n) := by
    have hrev := List.reverse_perm (List.range n)
    rw [List.range_eq_range', List.reverse_range'] at hrev
    simpa only [Nat.zero_add, List.range_eq_range'] using hrev
  rw [parity, ← hperm.foldl_eq, List.foldl_map]

/-- The bit of the window `back` steps before its present input (R233). -/
theorem getLsbD_convWindow (s : State) (csr : BitVec 6) (src : Nat) {back : Nat} (hback : back ≤ 6) :
    (convWindow csr (s.bit src)).getLsbD (6 - back) = convTap s csr src 0 back := by
  rw [convWindow, BitVec.getLsbD_cons, convTap]
  rcases Nat.eq_zero_or_pos back with rfl | hpos
  · rfl
  · rw [if_neg (by omega), if_neg (by omega), Nat.sub_zero]

/-- The parity of the window's tapped bits is the symbol of a run's first step (R233). -/
theorem parity_convWindow (s : State) (csr : BitVec 6) (src : Nat) (mask : BitVec 7) :
    parity (convWindow csr (s.bit src) &&& mask) = convSymbol s csr src 0 mask := by
  rw [parity_eq_foldl_rev]
  refine List.foldl_ext _ _ _ fun p back hback => ?_
  rw [BitVec.getLsbD_and, Bool.and_comm,
    getLsbD_convWindow s csr src (Nat.le_of_lt_succ (List.mem_range.1 hback))]

/-! ### A run -/

/-- After a run `CSR` holds the last six inputs, those before the run among them (R234). -/
theorem convRun_csr (s : State) (cfg : BitVec 17) (csr : BitVec 6) (src n : Nat) {back : Nat}
    (hlow : 1 ≤ back) (hhigh : back ≤ 6) :
    (convRun cfg csr (s.bits src n)).1.getLsbD (6 - back) = convTap s csr src n back := by
  induction n generalizing csr src with
  | zero => rw [convTap, if_neg (by omega), Nat.sub_zero]; rfl
  | succ n ih =>
    rw [State.bits_succ, convRun, ← convTap_convStep s cfg csr src n hhigh]
    exact ih _ _

/-- The two symbols of each step of a run (R233, R234). -/
theorem convRun_symbols (s : State) (cfg : BitVec 17) (csr : BitVec 6) (src : Nat) {n i : Nat}
    (hi : i < n) :
    (convRun cfg csr (s.bits src n)).2[2 * i]? = some (convSymbol s csr src i (convG1 cfg)) ∧
      (convRun cfg csr (s.bits src n)).2[2 * i + 1]? =
        some (xor (convSymbol s csr src i (convG2 cfg)) (convNeg2 cfg)) := by
  induction n generalizing csr src i with
  | zero => omega
  | succ n ih =>
    rw [State.bits_succ, convRun]
    cases i with
    | zero =>
      rw [← parity_convWindow, ← parity_convWindow]
      exact ⟨rfl, rfl⟩
    | succ i =>
      have hrest := ih (convStep cfg csr (s.bit src)).1 (src + 1) (Nat.lt_of_succ_lt_succ hi)
      rw [convSymbol_convStep, convSymbol_convStep] at hrest
      exact hrest

/-- A command that replaces the current context and writes a run of bits of BM. -/
theorem exec_ok_setCur_writeBits {i : Instr} {s : State} {body : State → Except Cause State}
    {c : Context} {a : Nat} {bs : List Bool} (h : s.cur.fsr = 0)
    (he : exec i s = .next (s.runCommand (encode i) body))
    (hb : body s = .ok ((s.setCur c).writeBits a bs)) :
    ∃ t, exec i s = .next t ∧ onlyBmCur s t a bs.length c ∧
      ∀ k b, bs[k]? = some b → t.bit (a + k) = b := by
  refine ⟨_, exec_ok h he hb, onlyBmCur_writeBits s a bs c, fun k b hk => ?_⟩
  obtain ⟨hlt, rfl⟩ := List.getElem?_eq_some_iff.1 hk
  exact ((s.setCur c).writeBits_spec a bs).2 k hlt

theorem convBody_eq_ok {s : State} {rd ra rb : XReg} (keep : Bool)
    (hsrc : s.xval ra + s.xval rb ≤ s.params.bmBits)
    (hdst : s.xval rd + 2 * s.xval rb ≤ s.params.bmBits) :
    let run := convRun s.cur.convcfg (if keep then s.cur.csr else 0) (s.bits (s.xval ra) (s.xval rb))
    convBody rd ra rb keep s = .ok ((s.setCur { s.cur with csr := run.1 }).writeBits (s.xval rd) run.2) :=
  if_pos (by rw [Bool.and_eq_true, inRange_iff, inRange_iff]; exact ⟨hsrc, hdst⟩)

/-- Settles O35: outside BM the range check fails; inside, the run's symbols and its last `CSR` are those of
the taps, read before anything is written. -/
theorem convResult : Obligations.ConvResult := by
  intro s rd ra rb keep h src dst n csr
  refine ⟨fun hout => exec_error h rfl ((convBody_eq_bmRange_iff s rd ra rb keep).2 hout),
    fun hsrc hdst => ?_⟩
  obtain ⟨t, he, hframe, hbits⟩ := exec_ok_setCur_writeBits
    (i := .conv rd ra rb keep) h rfl (convBody_eq_ok keep hsrc hdst)
  rw [convRun_length, State.bits_length] at hframe
  obtain ⟨-, -, -, hcur⟩ := id hframe
  refine ⟨t, he, ?_, fun back hlow hhigh => ?_, fun i hi => ?_⟩
  · rw [hcur]; exact hframe
  · rw [hcur]
    exact convRun_csr s _ csr src n hlow hhigh
  · obtain ⟨hfirst, hsecond⟩ := convRun_symbols s s.cur.convcfg csr src hi
    exact ⟨hbits _ _ hfirst, hbits _ _ hsecond⟩

end Sys2Proof.Machine

/-! The decoder and the encoder (30_encoding.md R110 to R120): the fields of a word, the row of a command, and
when a word decodes to a command. -/

namespace Sys2Proof

open Laws.EncodeRow (mnemonic place_narrow)

/-! ### Fields placed in a word -/

section Fields
variable {n : Nat} {lo : Nat}

theorem place_zero : place lo 0#n = 0#32 := by
  simp [place]

theorem getLsbD_place_of_disjoint {k : Nat} (v : BitVec n) (h : k < lo ∨ lo + n ≤ k) :
    (place lo v).getLsbD k = false := by
  rcases h with hlow | hhigh
  · simp [place, hlow]
  · have hv : v.getLsbD (k - lo) = false := BitVec.getLsbD_of_ge _ _ (by omega)
    simp [place, hv]

theorem getLsbD_place_ofBool (b : Bool) (h : lo < 32) : (place lo (BitVec.ofBool b)).getLsbD lo = b := by
  simp [place, h]

theorem extractLsb'_place_self (v : BitVec n) (h : lo + n ≤ 32) :
    (place lo v).extractLsb' lo n = v := by
  ext k hk
  have hbit : lo + k < 32 := by omega
  simp [place, hbit, hk]

theorem extractLsb'_place_of_disjoint {lo' n' : Nat} (v : BitVec n) (h : lo + n ≤ lo' ∨ lo' + n' ≤ lo) :
    (place lo v).extractLsb' lo' n' = 0#n' := by
  ext k hk
  rw [BitVec.getElem_extractLsb', getLsbD_place_of_disjoint v (by omega), BitVec.getElem_zero]

/-- A field read from a word and put back at its place is the word under the field's bits. -/
theorem place_extractLsb' (w : Word) (lo n : Nat) :
    place lo (w.extractLsb' lo n) = w &&& place lo (BitVec.allOnes n) := by
  ext k hk
  by_cases hlo : k < lo
  · simp [place, hlo]
  · have hback : lo + (k - lo) = k := by omega
    simp [place, hlo, hk, hback, Bool.and_comm]

/-- A flag is the field of its one bit. -/
theorem getLsbD_eq_extractLsb' (w : Word) (k : Nat) :
    BitVec.ofBool (w.getLsbD k) = w.extractLsb' k 1 := by
  ext i hi
  obtain rfl : i = 0 := by omega
  simp

end Fields

/-! ### The row of a command -/

theorem Instr.ctorIdx_lt (i : Instr) : i.ctorIdx < opcodeTable.length := by
  cases i <;> exact Nat.lt_of_sub_pos (Nat.succ_pos _)

/-- The row of the opcode map that is the command's (R115: the rows stand in the order of the constructors). -/
def Instr.row (i : Instr) : OpcodeRow := opcodeTable[i.ctorIdx]'(Instr.ctorIdx_lt i)

theorem Instr.row_mem (i : Instr) : i.row ∈ opcodeTable := List.getElem_mem _

theorem Instr.mnemonic_row (i : Instr) : i.row.mnemonic = mnemonic i := by
  cases i <;> rfl

theorem eq_of_mnemonic_eq {r t : OpcodeRow} (hr : r ∈ opcodeTable) (ht : t ∈ opcodeTable)
    (h : r.mnemonic = t.mnemonic) : r = t :=
  List.inj_on_of_nodup_map (f := OpcodeRow.mnemonic) (by decide) hr ht h

/-- The row law of every command, gathered from those of its constructors. -/
theorem encodeRow : (i : Instr) → Laws.EncodeRow.Statement i
  | .nop => Laws.EncodeRow.nop
  | .ctxclr => Laws.EncodeRow.ctxclr
  | .selsig ra => Laws.EncodeRow.selsig ra
  | .fecrst => Laws.EncodeRow.fecrst
  | .pack ra signed wm1 => Laws.EncodeRow.pack ra signed wm1
  | .packi wm1 imm => Laws.EncodeRow.packi wm1 imm
  | .packsp w => Laws.EncodeRow.packsp w
  | .qscale rd qa k sc => Laws.EncodeRow.qscale rd qa k sc
  | .pwlq rd ra up => Laws.EncodeRow.pwlq rd ra up
  | .crc24 ra rb cont => Laws.EncodeRow.crc24 ra rb cont
  | .crcput => Laws.EncodeRow.crcput
  | .conv rd ra rb keep => Laws.EncodeRow.conv rd ra rb keep
  | .ilvw ra rb => Laws.EncodeRow.ilvw ra rb
  | .ilvr rd rb => Laws.EncodeRow.ilvr rd rb
  | .t2b rd ra => Laws.EncodeRow.t2b rd ra
  | .seek ra => Laws.EncodeRow.seek ra
  | .adv => Laws.EncodeRow.adv
  | .wtype rd => Laws.EncodeRow.wtype rd
  | .almidx rd => Laws.EncodeRow.almidx rd
  | .bcopy rd ra rb => Laws.EncodeRow.bcopy rd ra rb
  | .tile rd ra rb rc re => Laws.EncodeRow.tile rd ra rb rc re
  | .mod rd ra rb => Laws.EncodeRow.mod rd ra rb
  | .modofs rd => Laws.EncodeRow.modofs rd
  | .kepler qd qa qb => Laws.EncodeRow.kepler qd qa qb
  | .prop ra rb => Laws.EncodeRow.prop ra rb
  | .reldly qd => Laws.EncodeRow.reldly qd

/-- The word of a command passes the test of its row (R115, R116). -/
theorem encode_and_mask (i : Instr) : encode i &&& i.row.mask = i.row.bits := by
  obtain ⟨r, hr, hname, hbits⟩ := encodeRow i
  rwa [eq_of_mnemonic_eq i.row_mem hr (i.mnemonic_row.trans hname.symm)]

/-- Every row's mask covers the opcode, so a word of the row has the row's opcode (R110, R115). -/
theorem opcodeOf_of_row {w : Word} {r : OpcodeRow} (hr : r ∈ opcodeTable) (hw : w &&& r.mask = r.bits) :
    opcodeOf w = opcodeOf r.bits := by
  have hmask : ∀ r ∈ opcodeTable, opcodeOf r.mask = BitVec.allOnes 8 := by decide
  calc opcodeOf w = opcodeOf w &&& opcodeOf r.mask := by rw [hmask r hr, BitVec.and_allOnes]
    _ = opcodeOf (w &&& r.mask) := BitVec.extractLsb'_and.symm
    _ = opcodeOf r.bits := by rw [hw]

/-! ### The operands of a command, read from a word -/

/-- The command of the row of `i` whose operands are the fields of `w` (R111 to R114). -/
def Instr.fieldsFrom (w : Word) : Instr → Instr
  | .nop => .nop
  | .ctxclr => .ctxclr
  | .selsig _ => .selsig (xField w 16)
  | .fecrst => .fecrst
  | .pack _ _ _ => .pack (xField w 20) (w.getLsbD 16) (w.extractLsb' 0 6)
  | .packi _ _ => .packi (w.extractLsb' 20 4) (w.extractLsb' 0 16)
  | .packsp _ => .packsp (w.extractLsb' 0 16)
  | .qscale _ _ _ _ => .qscale (xField w 20) (qField w 15) (w.extractLsb' 8 7) (w.getLsbD 7)
  | .pwlq _ _ _ => .pwlq (xField w 20) (xField w 16) (w.getLsbD 0)
  | .crc24 _ _ _ => .crc24 (xField w 16) (xField w 12) (w.getLsbD 0)
  | .crcput => .crcput
  | .conv _ _ _ _ => .conv (xField w 20) (xField w 16) (xField w 12) (w.getLsbD 0)
  | .ilvw _ _ => .ilvw (xField w 16) (xField w 12)
  | .ilvr _ _ => .ilvr (xField w 20) (xField w 12)
  | .t2b _ _ => .t2b (xField w 20) (xField w 16)
  | .seek _ => .seek (xField w 16)
  | .adv => .adv
  | .wtype _ => .wtype (xField w 20)
  | .almidx _ => .almidx (xField w 20)
  | .bcopy _ _ _ => .bcopy (xField w 20) (xField w 16) (xField w 12)
  | .tile _ _ _ _ _ => .tile (xField w 20) (xField w 16) (xField w 12) (xField w 8) (xField w 4)
  | .mod _ _ _ => .mod (xField w 20) (xField w 16) (xField w 12)
  | .modofs _ => .modofs (xField w 20)
  | .kepler _ _ _ => .kepler (qField w 19) (qField w 14) (qField w 9)
  | .prop _ _ => .prop (xField w 16) (xField w 12)
  | .reldly _ => .reldly (qField w 19)

theorem Instr.row_fieldsFrom (w : Word) (i : Instr) : (i.fieldsFrom w).row = i.row := by
  cases i <;> rfl

theorem Instr.fieldsFrom_fieldsFrom (w : Word) (i : Instr) :
    (i.fieldsFrom w).fieldsFrom w = i.fieldsFrom w := by
  cases i <;> rfl

/-- Each operand stands in a field of its own, and no other part of the word reaches into it. -/
theorem Instr.fieldsFrom_encode (i : Instr) : i.fieldsFrom (encode i) = i := by
  cases i
  all_goals
    simp (disch := decide) only [fieldsFrom, encode, formatR, formatI, formatQ, formatS, xField, qField,
      place_narrow, BitVec.extractLsb'_or, extractLsb'_place_self, extractLsb'_place_of_disjoint,
      BitVec.getLsbD_or, getLsbD_place_of_disjoint, getLsbD_place_ofBool, BitVec.or_zero, BitVec.zero_or,
      Bool.false_or, Bool.or_false]

/-- A row without operands has its whole word under the mask. -/
theorem fixedWord_eq {w v bits mask : Word} (hv : v = bits) (hmask : mask = BitVec.allOnes 32) :
    v = bits ||| (w &&& ~~~mask) := by
  rw [hv, hmask, BitVec.not_allOnes, BitVec.and_zero, BitVec.or_zero]

/-- The row's bits and the fields of a word make up the word of the command they are read as: no field is
dropped and none is wider than its place. -/
theorem encode_fieldsFrom (w : Word) (i : Instr) :
    encode (i.fieldsFrom w) = i.row.bits ||| (w &&& ~~~i.row.mask) := by
  cases i
  all_goals
    simp only [Instr.fieldsFrom, encode, formatR, formatI, formatQ, formatS, xField, qField, place_narrow,
      getLsbD_eq_extractLsb', place_extractLsb', place_zero, BitVec.or_assoc,
      ← BitVec.and_or_distrib_left, BitVec.ofNat_eq_ofNat, BitVec.or_zero, BitVec.ofBool_false]
  case nop | ctxclr | fecrst | crcput | adv => exact fixedWord_eq rfl rfl
  all_goals
    simp only [Instr.row, Instr.ctorIdx, opcodeTable, List.getElem_cons_succ, List.getElem_cons_zero]
    exact congrArg₂ (fun bits fields => bits ||| (w &&& fields)) (by decide) (by decide)

/-! ### When a word decodes -/

theorem inRow_eq_ok_iff {w bits mask : Word} {name : String} {i j : Instr} :
    inRow w bits mask name j = .ok i ↔ w &&& mask = bits ∧ j = i := by
  by_cases hw : w &&& mask = bits <;> simp [inRow, hw]

theorem decodePacki_eq_ok_iff {w : Word} {i : Instr} :
    decodePacki w = .ok i ↔ w &&& 0xFF0F0000 = 0x11000000 ∧
      packiFits (w.extractLsb' 20 4) (w.extractLsb' 0 16) = true ∧
      .packi (w.extractLsb' 20 4) (w.extractLsb' 0 16) = i := by
  unfold decodePacki
  split_ifs with hw hfits
  · exact ⟨fun h => ⟨hw, hfits, Except.ok.inj h⟩, fun ⟨_, _, h⟩ => congrArg Except.ok h⟩
  · exact ⟨nofun, fun ⟨_, h, _⟩ => absurd h hfits⟩
  · exact ⟨nofun, fun ⟨h, _, _⟩ => absurd h hw⟩

/-- The decoder, row by row (R115, R118, R119): a word decodes to a well-formed command exactly when it passes
the test of the command's row and its fields are the command's operands. -/
theorem decode_eq_ok_iff (w : Word) (i : Instr) :
    decode w = .ok i ↔ w &&& i.row.mask = i.row.bits ∧ i.fieldsFrom w = i ∧ i.wellFormed = true := by
  constructor
  · intro h
    unfold decode at h
    split at h
    -- `PACKI` has its value check beside the row test; the last case is a reserved opcode.
    case h_6 =>
      obtain ⟨hw, hfits, rfl⟩ := decodePacki_eq_ok_iff.1 h
      exact ⟨hw, rfl, hfits⟩
    case h_27 => cases h
    all_goals
      obtain ⟨hw, rfl⟩ := inRow_eq_ok_iff.1 h
      exact ⟨hw, rfl, rfl⟩
  · rintro ⟨hw, hfields, hwf⟩
    have hop := opcodeOf_of_row i.row_mem hw
    cases i
    all_goals
      simp only [Instr.row, Instr.ctorIdx, opcodeTable, List.getElem_cons_succ, List.getElem_cons_zero,
        opcodeOf, BitVec.ofNat_eq_ofNat, BitVec.reduceExtractLsb'] at hop
      simp only [decode, opcodeOf, hop, BitVec.reduceToNat]
    case packi wm1 imm =>
      obtain ⟨hwm1, himm⟩ := Instr.packi.inj hfields
      exact decodePacki_eq_ok_iff.2 ⟨hw, by rw [hwm1, himm]; exact hwf, hfields⟩
    all_goals exact inRow_eq_ok_iff.2 ⟨hw, hfields⟩

/-- The one check beyond the row test is the value check of `PACKI` (R118). -/
theorem wellFormed_fieldsFrom_iff (w : Word) (i : Instr) : (i.fieldsFrom w).wellFormed = true ↔
    (i.row.mnemonic = "PACKI" → (w.extractLsb' 0 16).toNat < 2 ^ ((w.extractLsb' 20 4).toNat + 1)) := by
  rw [i.mnemonic_row]
  cases i
  case packi => simp [Instr.fieldsFrom, Instr.wellFormed, packiFits, mnemonic]
  all_goals simp [Instr.fieldsFrom, Instr.wellFormed, mnemonic]

/-- Every row of the opcode map is the row of a command. -/
theorem exists_row_eq {r : OpcodeRow} (hr : r ∈ opcodeTable) : ∃ i : Instr, i.row = r := by
  have hrows : opcodeTable = List.map Instr.row
      [.nop, .ctxclr, .selsig 0, .fecrst, .pack 0 false 0, .packi 0 0, .packsp 0, .qscale 0 0 0 false,
        .pwlq 0 0 false, .crc24 0 0 false, .crcput, .conv 0 0 0 false, .ilvw 0 0, .ilvr 0 0, .t2b 0 0,
        .seek 0, .adv, .wtype 0, .almidx 0, .bcopy 0 0 0, .tile 0 0 0 0 0, .mod 0 0 0, .modofs 0,
        .kepler 0 0 0, .prop 0 0, .reldly 0] := rfl
  rw [hrows] at hr
  obtain ⟨i, -, hi⟩ := List.mem_map.1 hr
  exact ⟨i, hi⟩

/-! ### The obligations -/

/-- Settles O1: the word of a command passes its row's test, and its fields are the command's operands. -/
theorem decodeEncodeAgree : Obligations.DecodeEncodeAgree :=
  fun i hwf => (decode_eq_ok_iff _ i).2 ⟨encode_and_mask i, i.fieldsFrom_encode, hwf⟩

/-- Settles O2: the row's test fixes the bits under its mask, and the fields are the rest of the word. -/
theorem encodeDecodeAgree : Obligations.EncodeDecodeAgree := by
  intro w i h
  obtain ⟨hw, hfields, hwf⟩ := (decode_eq_ok_iff w i).1 h
  refine ⟨hwf, ?_⟩
  calc encode i = encode (i.fieldsFrom w) := by rw [hfields]
    _ = (w &&& i.row.mask) ||| (w &&& ~~~i.row.mask) := by rw [encode_fieldsFrom, hw]
    _ = w := by rw [← BitVec.and_or_distrib_left, BitVec.or_not_self, BitVec.and_allOnes]

/-- Settles O3: a word of a row decodes to the command of that row whose operands are its fields. -/
theorem legalWordsExactly : Obligations.LegalWordsExactly := by
  intro w
  constructor
  · rintro ⟨i, h⟩
    obtain ⟨hw, hfields, hwf⟩ := (decode_eq_ok_iff w i).1 h
    exact ⟨i.row, i.row_mem, hw, (wellFormed_fieldsFrom_iff w i).1 (hfields.symm ▸ hwf)⟩
  · rintro ⟨r, hr, hw, hfits⟩
    obtain ⟨i, rfl⟩ := exists_row_eq hr
    exact ⟨i.fieldsFrom w, (decode_eq_ok_iff w _).2
      ⟨by rwa [i.row_fieldsFrom], i.fieldsFrom_fieldsFrom w, (wellFormed_fieldsFrom_iff w i).2 hfits⟩⟩

/-- Settles O4, by running the decoder and the encoder on the eleven words. -/
theorem workedEncodings : Obligations.WorkedEncodings := by
  unfold Obligations.WorkedEncodings
  decide

end Sys2Proof

/-! Illegal commands, and the packing of an immediate. -/

namespace Sys2Proof.Machine

theorem present_of_not_decode {w : Word} (hd : ∀ i, decode w ≠ .ok i) (s : State) :
    present w s = .next ((s.enterFault .illegalCommand w).answer (.status 2)) := by
  cases hdec : decode w with
  | ok i => exact absurd hdec (hd i)
  | error e => simp only [present, hdec, answerStatus, State.enterFault_lastst, Cause.code]

/-- Settles O6: an illegal word is a fault with code 2, which does not reach the host's side. -/
theorem illegalCommand : Obligations.IllegalCommand := by
  intro s w rest hp hd
  refine ⟨_, State.enterFault_leaves { s with pending := rest } .illegalCommand w, ?_⟩
  obtain ⟨-, hresponses⟩ := (edits_enterFault { s with pending := rest } .illegalCommand w).hostSide
  calc step s = present w { s with pending := rest } := step_of_pending hp
    _ = _ := present_of_not_decode hd _
    _ = _ := by rw [State.answer, hresponses]

/-- Settles O29: `PACKI` packs its immediate as a field of `wm1 + 1` bits. -/
theorem packiResult : Obligations.PackiResult := by
  intro s wm1 imm h w a
  obtain ⟨hout, hin⟩ := packField_spec w imm.toNat s
  refine ⟨fun hlt => exec_error h rfl (hout hlt), fun hle => ?_⟩
  obtain ⟨t, hbody, hframe, hbits⟩ := hin hle
  exact ⟨_, exec_ok h rfl hbody, hframe, hbits⟩

end Sys2Proof.Machine

/-! The orbit unit (40_orbit.md): the exact values and the flags of the fixed-point primitives, the sine series,
the Kepler iteration with its corner cases, and what RELDLY and PROP read and write. -/

namespace Sys2Proof.Machine

/-! ### The primitives -/

/-- A value of 128 signed bits, and `QOVF` exactly when the reduction changed it (R141, R149). -/
theorem run_fxReduce (v : Int) (st : BitVec 8) :
    (fxReduce v).run st =
      ((v + 2 ^ 127) % 2 ^ 128 - 2 ^ 127, flagged (v < -(2 ^ 127) ∨ 2 ^ 127 ≤ v) .qovf st) := by
  have hflag : raiseIf .qovf (!fitsS 128 v) st = flagged (v < -(2 ^ 127) ∨ 2 ^ 127 ≤ v) .qovf st :=
    raiseIf_eq_flagged .qovf _ _ st (by
      rw [Bool.not_eq_true', ← Bool.not_eq_true, fitsS_iff, not_and_or, Int.not_le, Int.not_lt])
  rw [← hflag, ← wrapS_eq]
  rfl

theorem fxDiv_zero (a : Int) (st : BitVec 8) : (fxDiv a 0).run st = (0, st ||| 4) := rfl

theorem fxDiv_of_ne_zero (a : Int) {b : Int} (hb : b ≠ 0) :
    fxDiv a b = fxReduce (Int.fdiv (a * Config.one) b) := if_neg hb

theorem fxCos_eq (a : Int) : fxCos a = fxAdd a Config.halfPiQ >>= fun b => pure (fxSin b) := rfl

theorem fxSqrt_of_neg {a : Int} (ha : a < 0) (st : BitVec 8) : (fxSqrt a).run st = (0, st ||| 0x20) := by
  rw [fxSqrt, if_pos ha]
  rfl

theorem fxSqrt_of_nonneg {a : Int} (ha : 0 ≤ a) :
    fxSqrt a = pure (isqrt (a * Config.one).toNat : Int) := if_neg (Int.not_lt.2 ha)

/-- The root of a 128-bit value fits 128 bits: its square is below 2^191 (R144). -/
theorem lt_of_mul_self_le_mul_one {a r : Int} (ha : a < 2 ^ 127) (hr : r * r ≤ a * 2 ^ 64) :
    r < 2 ^ 127 := by
  by_contra hlt
  have hle : 2 ^ 127 ≤ r := not_lt.1 hlt
  have hsq : (2 : Int) ^ 127 * 2 ^ 127 ≤ r * r := mul_self_le_mul_self (by decide) hle
  omega

/-- Settles O50: `fx_sqrt` is the integer square root of `a * 2^64`. -/
theorem squareRoot : Obligations.SquareRoot := by
  intro a st hlt
  refine ⟨fun ha => ?_, fun ha => fxSqrt_of_neg ha st⟩
  obtain ⟨hlow, hhigh⟩ := isqrt_spec (a * Config.one).toNat
  have hcast : ((a * Config.one).toNat : Int) = a * 2 ^ 64 :=
    Int.toNat_of_nonneg (Int.mul_nonneg ha (by decide))
  zify at hlow hhigh
  rw [hcast] at hlow hhigh
  exact ⟨isqrt (a * Config.one).toNat, by rw [fxSqrt_of_nonneg ha]; rfl, Int.natCast_nonneg _,
    lt_of_mul_self_le_mul_one hlt hlow, hlow, hhigh⟩

/-! ### The sine series -/

/-- Term `k` of the series of R147 for the folded angle `z` and its square `z2`. -/
def sinTerm (z z2 : Int) : Nat → Int
  | 0 => z
  | k + 1 => fdiv (-(mulValue (sinTerm z z2 k) z2)) ((2 * (k + 1 : Nat)) * (2 * (k + 1 : Nat) + 1))

/-- The model's loop adds up the terms it has left. -/
theorem sinSeries_eq_sum (z z2 : Int) (left k : Nat) (sum : Int) :
    sinSeries z2 left (k + 1 : Nat) (sinTerm z z2 k) sum =
      sum + ((List.range' (k + 1) left).map (sinTerm z z2)).sum := by
  induction left generalizing k sum with
  | zero => simp [sinSeries]
  | succ left ih =>
    calc sinSeries z2 (left + 1) (k + 1 : Nat) (sinTerm z z2 k) sum
      _ = sinSeries z2 left (k + 1 + 1 : Nat) (sinTerm z z2 (k + 1)) (sum + sinTerm z z2 (k + 1)) := rfl
      _ = _ := by rw [ih, List.range'_succ, List.map_cons, List.sum_cons, Int.add_assoc]

/-- The angle folded into the half period exceeds it by one unit at most (R147). -/
theorem abs_foldHalf_wrapPi_le (a : Int) : |foldHalf (wrapPi a)| ≤ Config.halfPiQ + 1 := by
  obtain ⟨hlow, hhigh⟩ := wrapPi_range a
  have hpi : Config.piQ = 2 * Config.halfPiQ + 1 := rfl
  have hpos : 0 < Config.halfPiQ := by decide
  rw [abs_le]
  unfold foldHalf
  split_ifs <;> constructor <;> omega

/-- A product that is at most `c` when scaled back to 2^64 is at most `c` after the floor, too. -/
theorem abs_fdiv_one_le {p c : Int} (h : |p| ≤ c * Config.one) : |fdiv p Config.one| ≤ c := by
  have hone : Config.one = 2 ^ 64 := rfl
  have hdiv : fdiv p Config.one = p / Config.one := Int.fdiv_eq_ediv_of_nonneg _ (by decide)
  rw [hone, abs_le] at h
  rw [hdiv, hone, abs_le]
  omega

theorem mulValue_of_abs_le {a b c : Int} (h : |a * b| ≤ c * Config.one) (hc : c < 2 ^ 127) :
    mulValue a b = fdiv (a * b) Config.one := by
  obtain ⟨hlow, hhigh⟩ := abs_le.1 (abs_fdiv_one_le h)
  exact wrapS_of_fits _ (by omega) (by omega)

/-- `fx_mul` of operands whose product stays in range sets no flag. -/
theorem fxMul_of_abs_le {a b c : Int} (h : |a * b| ≤ c * Config.one) (hc : c < 2 ^ 127) :
    fxMul a b = pure (mulValue a b) ∧ |mulValue a b| ≤ c := by
  have hbound := abs_fdiv_one_le h
  obtain ⟨hlow, hhigh⟩ := abs_le.1 hbound
  rw [mulValue_of_abs_le h hc]
  exact ⟨fxReduce_of_fits _ (by omega) (by omega), hbound⟩

/-- The square of the folded angle: at most 2.5 (R147). -/
theorem fxMul_foldHalf_self {z : Int} (hz : |z| ≤ Config.halfPiQ + 1) :
    fxMul z z = pure (mulValue z z) ∧ |mulValue z z| ≤ 5 * 2 ^ 63 := by
  refine fxMul_of_abs_le ?_ (by decide)
  calc |z * z| = |z| * |z| := abs_mul z z
    _ ≤ (Config.halfPiQ + 1) * (Config.halfPiQ + 1) := mul_le_mul hz hz (abs_nonneg z) (by decide)
    _ ≤ 5 * 2 ^ 63 * Config.one := by decide

/-- The product of a term (at most 4) and the square (at most 2.5) sets no flag. -/
theorem fxMul_term {t z2 : Int} (ht : |t| ≤ 2 ^ 66) (hz2 : |z2| ≤ 5 * 2 ^ 63) :
    fxMul t z2 = pure (mulValue t z2) ∧ |mulValue t z2| ≤ 5 * 2 ^ 65 := by
  refine fxMul_of_abs_le ?_ (by decide)
  calc |t * z2| = |t| * |z2| := abs_mul t z2
    _ ≤ 2 ^ 66 * (5 * 2 ^ 63) := mul_le_mul ht hz2 (abs_nonneg z2) (by decide)
    _ = 5 * 2 ^ 65 * Config.one := by decide

/-- Dividing by at least 6 makes up for the multiplication by the square. -/
theorem abs_fdiv_neg_le {p d : Int} (hp : |p| ≤ 5 * 2 ^ 65) (hd : 6 ≤ d) : |fdiv (-p) d| ≤ 2 ^ 66 := by
  obtain ⟨hlow, hhigh⟩ := abs_le.1 hp
  have hdiv : fdiv (-p) d = -p / d := Int.fdiv_eq_ediv_of_nonneg _ (by omega)
  rw [hdiv, abs_le]
  exact ⟨Int.le_ediv_of_mul_le (by omega) (by omega),
    Int.le_of_lt (Int.ediv_lt_of_lt_mul (by omega) (by omega))⟩

theorem abs_sinTerm_le {z z2 : Int} (hz : |z| ≤ 2 ^ 66) (hz2 : |z2| ≤ 5 * 2 ^ 63) (k : Nat) :
    |sinTerm z z2 k| ≤ 2 ^ 66 := by
  induction k with
  | zero => exact hz
  | succ k ih =>
    refine abs_fdiv_neg_le (fxMul_term ih hz2).2 ?_
    push_cast
    nlinarith [Int.natCast_nonneg k]

/-- 14 terms stay far from 2^127 (R147: "No step can overflow"). -/
theorem abs_sum_sinTerm_le {z z2 : Int} (hz : |z| ≤ 2 ^ 66) (hz2 : |z2| ≤ 5 * 2 ^ 63) :
    |((List.range 14).map (sinTerm z z2)).sum| ≤ 2 ^ 70 := by
  have hterm : ∀ t ∈ (List.range 14).map (sinTerm z z2), -(2 ^ 66) ≤ t ∧ t ≤ 2 ^ 66 := by
    intro t ht
    obtain ⟨k, -, rfl⟩ := List.mem_map.1 ht
    exact abs_le.1 (abs_sinTerm_le hz hz2 k)
  have hlow := List.card_nsmul_le_sum _ _ fun t ht => (hterm t ht).1
  have hhigh := List.sum_le_card_nsmul _ _ fun t ht => (hterm t ht).2
  rw [List.length_map, List.length_range, nsmul_eq_mul] at hlow hhigh
  exact abs_le.2 ⟨by omega, by omega⟩

/-- `fx_sin` is the exact sum of the 14 terms of its series: the last reduction changes nothing (R147). -/
theorem fxSin_eq_sum (a : Int) :
    let z := foldHalf (wrapPi a)
    fxSin a = ((List.range 14).map (sinTerm z (mulValue z z))).sum ∧ |fxSin a| ≤ 2 ^ 70 := by
  intro z
  have hfold : |z| ≤ Config.halfPiQ + 1 := abs_foldHalf_wrapPi_le a
  have hbound := abs_sum_sinTerm_le (hfold.trans (by decide)) (fxMul_foldHalf_self hfold).2
  obtain ⟨hlow, hhigh⟩ := abs_le.1 hbound
  have hseries : fxSin a = wrapS 128 ((List.range 14).map (sinTerm z (mulValue z z))).sum :=
    congrArg (wrapS 128) (sinSeries_eq_sum z (mulValue z z) 13 0 z)
  rw [hseries, wrapS_of_fits _ (by omega) (by omega)]
  exact ⟨rfl, hbound⟩

/-- Settles O59: each primitive reduces an exact value, and the series of the sine never leaves 128 bits. -/
theorem fixedPointPrimitives : Obligations.FixedPointPrimitives := by
  intro a b st pi halfPi reduced
  refine ⟨run_fxReduce _ st, run_fxReduce _ st, run_fxReduce _ st, ?_, ?_, ?_, ?_⟩
  · rintro rfl
    exact fxDiv_zero a st
  · intro hb
    rw [fxDiv_of_ne_zero a hb]
    exact run_fxReduce _ st
  · rw [fxCos_eq, StateT.run_bind, fxAdd, run_fxReduce]
    rfl
  · intro y z
    have hz : |z| ≤ Config.halfPiQ + 1 := abs_foldHalf_wrapPi_le a
    obtain ⟨hsquare, hz2⟩ := fxMul_foldHalf_self hz
    obtain ⟨hsum, hsin⟩ := fxSin_eq_sum a
    obtain ⟨hlow, hhigh⟩ := abs_le.1 hsin
    refine ⟨mulValue z z, sinTerm z (mulValue z z),
      fun k => mulValue (sinTerm z (mulValue z z) (k - 1)) (mulValue z z), by rw [hsquare]; rfl, rfl,
      fun k hk _ => ?_, hsum, by omega, by omega⟩
    obtain ⟨j, rfl⟩ := Nat.exists_eq_add_of_le' hk
    refine ⟨?_, rfl⟩
    rw [(fxMul_term (abs_sinTerm_le (hz.trans (by decide)) hz2 _) hz2).1]
    rfl

/-! ### The Kepler iteration -/

/-- The step `d` of one Newton step of R150 from `ea`, and the `E` it leaves. -/
def newtonStep (e m ea : Int) : FxM (Int × Int) := do
  let sine := fxSin ea
  let cosine ← fxCos ea
  let es ← fxMul e sine
  let g ← fxSub ea es
  let f ← fxSub g m
  let ec ← fxMul e cosine
  let fp ← fxSub Config.one ec
  let d ← fxDiv f fp
  let ea' ← fxSub ea d
  pure (d, ea')

/-- One turn of the loop: a Newton step, and the test of its size (R150). -/
theorem keplerLoop_succ (e m : Int) (fuel it : Nat) (ea : Int) :
    keplerLoop e m (fuel + 1) it ea = newtonStep e m ea >>= fun r =>
      if |r.1| ≤ 2 ^ 24 then pure { ea := r.2, it := it + 1, converged := true }
      else keplerLoop e m fuel (it + 1) r.2 := by
  have htol (d : Int) : d.natAbs ≤ Config.ktol.toNat ↔ |d| ≤ 2 ^ 24 := by
    rw [Int.abs_eq_natAbs, show Config.ktol.toNat = 2 ^ 24 from rfl]
    omega
  simp only [keplerLoop, newtonStep, bind_assoc, pure_bind, htol]

/-- A Newton step as a function of the last `d`, the present `E` and `STATUS`. -/
def newtonRun (e m : Int) (r : (Int × Int) × BitVec 8) : (Int × Int) × BitVec 8 :=
  (newtonStep e m r.1.2).run r.2

theorem run_keplerLoop_succ (e m : Int) (fuel it : Nat) (r : (Int × Int) × BitVec 8) :
    (keplerLoop e m (fuel + 1) it r.1.2).run r.2 =
      if |(newtonRun e m r).1.1| ≤ 2 ^ 24 then
        ({ ea := (newtonRun e m r).1.2, it := it + 1, converged := true }, (newtonRun e m r).2)
      else (keplerLoop e m fuel (it + 1) (newtonRun e m r).1.2).run (newtonRun e m r).2 := by
  rw [keplerLoop_succ, StateT.run_bind]
  change StateT.run (if |(newtonRun e m r).1.1| ≤ 2 ^ 24 then _ else _) _ = _
  split <;> rfl

/-- The Newton steps the loop makes from `r` with `fuel` iterations left: up to the first within the
tolerance, or all of them (R150). -/
structure LoopSteps (e m : Int) (fuel : Nat) (r : (Int × Int) × BitVec 8) (n : Nat) : Prop where
  pos : 1 ≤ n
  le_fuel : n ≤ fuel
  not_before : ∀ i, 1 ≤ i → i < n → 2 ^ 24 < |((newtonRun e m)^[i] r).1.1|
  last : n = fuel ∨ |((newtonRun e m)^[n] r).1.1| ≤ 2 ^ 24

theorem LoopSteps.one {e m : Int} {fuel : Nat} {r : (Int × Int) × BitVec 8} (hfuel : 0 < fuel)
    (hlast : 1 = fuel ∨ |(newtonRun e m r).1.1| ≤ 2 ^ 24) : LoopSteps e m fuel r 1 where
  pos := le_rfl
  le_fuel := hfuel
  not_before _ hi hlt := absurd hi (Nat.not_le.2 hlt)
  last := hlast

/-- A step beyond the tolerance, and then the steps of the rest of the loop. -/
theorem LoopSteps.succ {e m : Int} {fuel n : Nat} {r : (Int × Int) × BitVec 8}
    (hfar : 2 ^ 24 < |(newtonRun e m r).1.1|) (h : LoopSteps e m fuel (newtonRun e m r) n) :
    LoopSteps e m (fuel + 1) r (n + 1) where
  pos := Nat.le_add_left 1 n
  le_fuel := Nat.succ_le_succ h.le_fuel
  not_before i hi hlt := by
    obtain ⟨j, rfl⟩ := Nat.exists_eq_add_of_le' hi
    cases j with
    | zero => exact hfar
    | succ j => exact h.not_before (j + 1) (Nat.le_add_left 1 j) (Nat.lt_of_succ_lt_succ hlt)
  last := h.last.imp_left (congrArg (· + 1))

/-- What the loop leaves: the `E` and the flags of its last step, and whether that met the tolerance (R150). -/
theorem run_keplerLoop (e m : Int) (fuel it : Nat) (r : (Int × Int) × BitVec 8) :
    ∃ n, LoopSteps e m (fuel + 1) r n ∧
      (keplerLoop e m (fuel + 1) it r.1.2).run r.2 =
        ({ ea := ((newtonRun e m)^[n] r).1.2, it := it + n
           converged := decide (|((newtonRun e m)^[n] r).1.1| ≤ 2 ^ 24) }, ((newtonRun e m)^[n] r).2) := by
  induction fuel generalizing it r with
  | zero =>
    refine ⟨1, .one Nat.one_pos (.inl rfl), ?_⟩
    rw [run_keplerLoop_succ, Function.iterate_one]
    split
    · next hnear => simp only [hnear, decide_true]
    · next hfar => simp only [hfar, decide_false]; rfl
  | succ fuel ih =>
    rw [run_keplerLoop_succ]
    split
    · next hnear =>
      refine ⟨1, .one (Nat.succ_pos _) (.inr hnear), ?_⟩
      simp only [Function.iterate_one, hnear, decide_true]
    · next hfar =>
      obtain ⟨n, hsteps, hrun⟩ := ih (it + 1) (newtonRun e m r)
      refine ⟨n + 1, hsteps.succ (not_le.1 hfar), hrun.trans ?_⟩
      rw [Function.iterate_succ_apply, Nat.add_right_comm]
      rfl

/-- `kepler` from the outcome of its loop: the angle is wrapped, and `NOCONV` tells a loop that did not
converge (R150). -/
theorem run_kepler {manom e : Int} {st st' : BitVec 8} {run : KeplerRun}
    (h : (keplerLoop e (wrapPi manom) Config.maxit 0
      (if wrapPi manom ≥ 0 then Config.piQ else -Config.piQ)).run st = (run, st')) :
    (kepler manom e).run st = ((wrapPi run.ea, run.it), raiseIf .noconv (!run.converged) st') := by
  simp only [kepler, StateT.run_bind, h]
  rfl

/-- Settles O60: the loop of R150 as Newton steps, and its answer. -/
theorem keplerIteration : Obligations.KeplerIteration := by
  intro manom e st _ pi m newton after
  let start : (Int × Int) × BitVec 8 := ((0, if 0 ≤ m then pi else -pi), st)
  obtain ⟨n, ⟨hpos, hfuel, hbefore, hlast⟩, hrun⟩ := run_keplerLoop e m 63 0 start
  refine ⟨n, hpos, hfuel, hbefore, hlast, (run_kepler hrun).trans ?_⟩
  have hflag := raiseIf_eq_flagged .noconv (2 ^ 24 < |(after n).1.1|) (!decide (|(after n).1.1| ≤ 2 ^ 24))
    (after n).2 (by simp)
  rw [← hflag, Nat.zero_add]
  rfl

/-! ### The corner cases of KEPLER -/

theorem fxAdd_of_fits {a b : Int} (h : -(2 ^ 127) ≤ a + b ∧ a + b < 2 ^ 127) : fxAdd a b = pure (a + b) :=
  fxReduce_of_fits _ h.1 h.2

theorem fxSub_of_fits {a b : Int} (h : -(2 ^ 127) ≤ a - b ∧ a - b < 2 ^ 127) : fxSub a b = pure (a - b) :=
  fxReduce_of_fits _ h.1 h.2

/-- The quotient of a correction `f` by `1 - ec`, when it is `f` itself: there is none, or `ec` is 0. -/
theorem fxDiv_eq_self {f ec : Int} (hf : -(2 ^ 127) ≤ f ∧ f < 2 ^ 127) (hec : ec ≤ 0)
    (h : f = 0 ∨ ec = 0) : fxDiv f (Config.one - ec) = pure f := by
  have hpos : 0 < Config.one - ec := by have : Config.one = 2 ^ 64 := rfl; omega
  have hquot : Int.fdiv (f * Config.one) (Config.one - ec) = f := by
    rcases h with rfl | rfl
    · rw [Int.zero_mul, Int.zero_fdiv]
    · rw [Int.sub_zero, Int.mul_fdiv_cancel _ (by decide)]
  rw [fxDiv_of_ne_zero f hpos.ne', hquot]
  exact fxReduce_of_fits f hf.1 hf.2

/-- A Newton step from which the sine drops out goes straight to `m`, without a flag, when `m` is its start or
the cosine drops out, too. -/
theorem newtonStep_eq_pure {e m ea ec : Int} (hea : |ea| ≤ Config.piQ) (hm : |m| ≤ Config.piQ)
    (hsin : fxMul e (fxSin ea) = pure 0) (hcos : fxMul e (fxSin (ea + Config.halfPiQ)) = pure ec)
    (hec : -(2 ^ 70) ≤ ec ∧ ec ≤ 0) (h : ea = m ∨ ec = 0) :
    newtonStep e m ea = pure (ea - m, m) := by
  have hpi : Config.piQ = 0x3243F6A8885A308D3 := rfl
  have hhalf : Config.halfPiQ = 0x1921FB54442D18469 := rfl
  have hone : Config.one = 2 ^ 64 := rfl
  rw [abs_le] at hea hm
  have hdiv : fxDiv (ea - m) (Config.one - ec) = pure (ea - m) :=
    fxDiv_eq_self (by omega) hec.2 (h.imp_left (by omega))
  simp only [newtonStep, fxCos_eq, fxAdd_of_fits (a := ea) (b := Config.halfPiQ) (by omega), pure_bind,
    hsin, hcos, fxSub_of_fits (a := ea) (b := 0) (by omega), Int.sub_zero,
    fxSub_of_fits (a := ea) (b := m) (by omega), fxSub_of_fits (a := Config.one) (b := ec) (by omega), hdiv,
    fxSub_of_fits (a := ea) (b := ea - m) (by omega), sub_sub_cancel]

/-- A product of a legal eccentricity and a sine stays in range, and has the sign of the sine (R153). -/
theorem fxMul_fxSin {e : Int} (he : legalEcc e) (a : Int) (hneg : fxSin a ≤ 0) :
    ∃ ec, fxMul e (fxSin a) = pure ec ∧ -(2 ^ 70) ≤ ec ∧ ec ≤ 0 := by
  have hbound : |e * fxSin a| ≤ 2 ^ 70 * Config.one := by
    calc |e * fxSin a| = |fxSin a| * |e| := by rw [abs_mul, mul_comm]
      _ ≤ 2 ^ 70 * Config.one := mul_le_mul (fxSin_eq_sum a).2
        ((abs_of_nonneg he.1).trans_le he.2.le) (abs_nonneg e) (by decide)
  obtain ⟨hmul, hvalue⟩ := fxMul_of_abs_le hbound (by decide)
  refine ⟨_, hmul, (abs_le.1 hvalue).1, ?_⟩
  rw [mulValue_of_abs_le hbound (by decide), fdiv, Int.fdiv_eq_ediv_of_nonneg _ (by decide)]
  exact Int.ediv_nonpos_of_nonpos_of_neg (Int.mul_nonpos_of_nonneg_of_nonpos he.1 hneg) (by decide)

/-- At M = PI_Q the first Newton step finds the start to be the solution (R151). -/
theorem newtonStep_piQ {e : Int} (he : legalEcc e) :
    newtonStep e Config.piQ Config.piQ = pure (0, Config.piQ) := by
  have hpi : |Config.piQ| ≤ Config.piQ := by decide
  have hsin : fxMul e (fxSin Config.piQ) = pure 0 := by
    have hzero : fxSin Config.piQ = 0 := by decide
    rw [hzero, fxMul, Int.mul_zero]
    rfl
  obtain ⟨ec, hcos, hec⟩ := fxMul_fxSin he (Config.piQ + Config.halfPiQ) (by decide)
  exact newtonStep_eq_pure hpi hpi hsin hcos hec (.inl rfl)

/-- With e = 0 each Newton step finds the solution (R151). -/
theorem newtonStep_zero {m ea : Int} (hea : |ea| ≤ Config.piQ) (hm : |m| ≤ Config.piQ) :
    newtonStep 0 m ea = pure (ea - m, m) := by
  have hmul (b : Int) : fxMul 0 b = pure 0 := by
    rw [fxMul, Int.zero_mul]
    rfl
  exact newtonStep_eq_pure hea hm (hmul _) (hmul _) (by decide) (.inr rfl)

theorem keplerLoop_of_near {e m ea d ea' : Int} (h : newtonStep e m ea = pure (d, ea')) (hd : |d| ≤ 2 ^ 24)
    (fuel it : Nat) :
    keplerLoop e m (fuel + 1) it ea = pure { ea := ea', it := it + 1, converged := true } := by
  rw [keplerLoop_succ, h, pure_bind, if_pos hd]

/-- With e = 0 the loop ends in at most 2 steps: the second starts from the solution (R151). -/
theorem keplerLoop_zero {m ea : Int} (hea : |ea| ≤ Config.piQ) (hm : |m| ≤ Config.piQ) (fuel : Nat) :
    ∃ it, it ≤ 2 ∧ keplerLoop 0 m (fuel + 2) 0 ea = pure { ea := m, it := it, converged := true } := by
  have hstep := newtonStep_zero hea hm
  by_cases hnear : |ea - m| ≤ 2 ^ 24
  · exact ⟨1, by decide, keplerLoop_of_near hstep hnear _ _⟩
  · refine ⟨2, le_rfl, ?_⟩
    rw [keplerLoop_succ, hstep, pure_bind, if_neg hnear]
    exact keplerLoop_of_near (newtonStep_zero hm hm) (by simp) _ _

theorem wrapPi_wrapPi (a : Int) : wrapPi (wrapPi a) = wrapPi a := by
  have hinner : wrapPi a + Config.piQ - 1 = (a + Config.piQ - 1) % Config.twoPiQ := by
    rw [wrapPi]
    omega
  rw [wrapPi, hinner, Int.emod_emod]
  rfl

theorem abs_wrapPi_le (a : Int) : |wrapPi a| ≤ Config.piQ := by
  obtain ⟨hlow, hhigh⟩ := wrapPi_range a
  exact abs_le.2 ⟨by omega, hhigh⟩

theorem run_kepler_of_loop {manom e ea : Int} {it : Nat} (st : BitVec 8)
    (h : keplerLoop e (wrapPi manom) Config.maxit 0 (if wrapPi manom ≥ 0 then Config.piQ else -Config.piQ) =
      pure { ea := ea, it := it, converged := true }) :
    (kepler manom e).run st = ((wrapPi ea, it), st) :=
  run_kepler (congrArg (StateT.run · st) h)

theorem run_kepler_piQ {e : Int} (he : legalEcc e) (st : BitVec 8) :
    (kepler Config.piQ e).run st = ((Config.piQ, 1), st) := by
  have hwrap : wrapPi Config.piQ = Config.piQ := by decide
  have hloop := keplerLoop_of_near (newtonStep_piQ he) (by decide) 63 0
  rw [run_kepler_of_loop st (by rw [hwrap, if_pos (by decide)]; exact hloop), hwrap]

/-- Settles O51: in each corner case a Newton step of known outcome ends the loop. -/
theorem keplerCornerCases : Obligations.KeplerCornerCases := by
  intro m e st
  refine ⟨fun he => run_kepler_piQ he st, ?_⟩
  have hstart : |if wrapPi m ≥ 0 then Config.piQ else -Config.piQ| ≤ Config.piQ := by
    split <;> decide
  obtain ⟨it, hit, hloop⟩ := keplerLoop_zero hstart (abs_wrapPi_le m) 62
  exact ⟨it, hit, by rw [run_kepler_of_loop st hloop, wrapPi_wrapPi]⟩

/-! ### RELDLY, and what PROP depends on -/

/-- The value of `RELDLY` fits its register: it is the result of an `fx_mul`. -/
theorem ensures_relativisticDelay (sqrtA ecc ea sqrtGm clight : Int) :
    Ensures (relativisticDelay sqrtA ecc ea sqrtGm clight) Wrapped :=
  (ensures_true _).bind fun _ _ => (ensures_true _).bind fun _ _ => (ensures_true _).bind fun _ _ =>
    (ensures_true _).bind fun _ _ => ensures_fxReduce _

theorem exec_reldly (s : State) (qd : QReg) {v : Int} {st : BitVec 8}
    (h : (relativisticDelay (s.qval 0) (s.qval 1) (s.qval 22) (s.qval 24) (s.qval 26)).run s.status = (v, st)) :
    exec (.reldly qd) s = .next (((s.setStatus st).setQ qd v).setLastst 0) := by
  simp only [exec, execReldly, State.runExempt, h]

/-- Settles O48: RELDLY runs R162 and stores its value. -/
theorem reldlyResult : Obligations.ReldlyResult := by
  intro s qd
  obtain ⟨⟨v, st⟩, hrun⟩ : ∃ r, (relativisticDelay (s.qval 0) (s.qval 1) (s.qval 22) (s.qval 24)
    (s.qval 26)).run s.status = r := ⟨_, rfl⟩
  have hwrapped : wrapS 128 v = v := by
    have h := ensures_relativisticDelay (s.qval 0) (s.qval 1) (s.qval 22) (s.qval 24) (s.qval 26) s.status
    rwa [hrun] at h
  have hq (r : QReg) : State.qval (((s.setStatus st).setQ qd v).setLastst 0) r =
      if r = qd then v else s.qval r :=
    (State.qval_setQ (s.setStatus st) qd v r).trans (by rw [hwrapped]; rfl)
  refine ⟨_, exec_reldly s qd hrun, ⟨rfl, fun r hr => (hq r).trans (if_neg hr)⟩, rfl, fun _ => ?_⟩
  intro value
  have hvalue : value.run s.status = (v, st) := hrun
  rw [hvalue]
  exact ⟨(hq qd).trans (if_pos rfl), rfl⟩

theorem elements_congr {s u : State}
    (h : ∀ r : QReg, r.toNat ≤ 8 ∨ r = 24 ∨ r = 25 → s.qval r = u.qval r) : s.elements = u.elements := by
  simp only [State.elements, h 0 (by decide), h 1 (by decide), h 2 (by decide), h 3 (by decide),
    h 4 (by decide), h 5 (by decide), h 6 (by decide), h 7 (by decide), h 8 (by decide), h 24 (by decide),
    h 25 (by decide)]

/-- What q16 to q23 hold after a propagation is stored comes from the propagation alone (R160). -/
theorem State.qval_storeOrbit_congr (s u : State) (o : OrbitState) (r : QReg) (hlow : 16 ≤ r.toNat)
    (hhigh : r.toNat ≤ 23) : (s.storeOrbit o).qval r = (u.storeOrbit o).qval r := by
  have hk : ∀ (u : State) n r, (u.setKiter n).qval r = u.qval r := fun _ _ _ => rfl
  have hr : r = 16 ∨ r = 17 ∨ r = 18 ∨ r = 19 ∨ r = 20 ∨ r = 21 ∨ r = 22 ∨ r = 23 := by
    revert r; decide
  simp only [State.storeOrbit, hk, State.qval_setQ]
  rcases hr with rfl | rfl | rfl | rfl | rfl | rfl | rfl | rfl <;> simp

/-- Settles O49: the propagation is a function of what R161 lists, and yields the same value whatever
`STATUS` holds. -/
theorem propIndependent : Obligations.PropIndependent := by
  intro s u ra rb _ ha hb hq htick
  obtain ⟨o, d, -, hrun⟩ : Uniform [.qovf, .divz, .noconv, .negsqrt]
      (propagate s.elements (s.xint ra) (s.xint rb) s.tickHz.toNat) :=
    uniform_propagate (by decide) (by decide) (by decide) (by decide) _ _ _ _
  have hrun' : (propagate u.elements (u.xint ra) (u.xint rb) u.tickHz.toNat).run u.status =
      (o, addFlags d u.status) := by
    rw [← elements_congr hq, State.xint, State.xint, ← ha, ← hb, ← htick]
    exact hrun u.status
  refine ⟨_, _, exec_prop s ra rb (hrun s.status), exec_prop u ra rb hrun', ?_,
    fun r hlow hhigh => ?_⟩
  · rw [State.kiter_afterProp, State.kiter_afterProp]
  · rw [State.qval_afterProp, State.qval_afterProp]
    exact State.qval_storeOrbit_congr _ _ o r hlow hhigh

end Sys2Proof.Machine

/-! The packer (41_packer.md): where `PACK` and `PACKSP` lay their bits, the rounding of `QSCALE`, the code of
`PWLQ`, and the round trip of a scaled field. -/

namespace Sys2Proof.Machine

/-! ### PACK and PACKSP -/

/-- The flag a failed check raises, in the terms of claims. -/
theorem raiseIf_not_eq_flagged (f : Flag) (c : Prop) [Decidable c] (b : Bool) (st : BitVec 8)
    (h : b = true ↔ ¬ c) : raiseIf f (!b) st = flagged c f st :=
  raiseIf_eq_flagged f c _ st (by rw [Bool.not_eq_true', ← Bool.not_eq_true, h, not_not])

theorem packFits_iff (signed : Bool) (w : Nat) (v : BitVec 64) :
    packFits signed w v = true ↔
      if signed = true then -(2 ^ (w - 1)) ≤ v.toInt ∧ v.toInt < 2 ^ (w - 1) else v.toNat < 2 ^ w := by
  cases signed with
  | true => exact fitsS_iff w v.toInt
  | false =>
    rw [packFits, if_neg Bool.false_ne_true, if_neg Bool.false_ne_true, fitsU_iff,
      and_iff_right (Int.natCast_nonneg _)]
    exact_mod_cast Iff.rfl

/-- Settles O28: `PACK` packs the register as a field, in the state its flag leaves. -/
theorem packResult : Obligations.PackResult := by
  intro s ra signed wm1 h w a fits
  have hflag : raiseIf .fovf (!packFits signed w (s.xreg ra)) s.status = flagged (¬ fits) .fovf s.status :=
    raiseIf_not_eq_flagged .fovf _ _ _ ((packFits_iff signed w _).trans not_not.symm)
  refine ⟨fun hout => exec_error h rfl ((packBody_eq_bmRange_iff s ra signed wm1).2 hout), fun hin => ?_⟩
  obtain ⟨t, hbody, hframe, hbits⟩ :=
    (packField_spec w (s.xval ra) (s.flagIf .fovf (!packFits signed w (s.xreg ra)))).2 hin
  rw [State.flagIf, hflag] at hframe
  exact ⟨_, exec_ok h rfl hbody, hframe, hbits⟩

theorem packspBody_eq_config {s : State} (hlen : s.splen.toNat < 1 ∨ 64 < s.splen.toNat) (w : Nat) :
    packspBody w s = .error .config :=
  if_pos (by rwa [Bool.or_eq_true, decide_eq_true_eq, decide_eq_true_eq])

theorem packspBody_eq_ok {s : State} {w : Nat} (hlow : 1 ≤ s.splen.toNat) (hhigh : s.splen.toNat ≤ 64)
    (hin : s.cur.wp.toNat + w ≤ s.params.bmBits) :
    packspBody w s =
      .ok ((s.writeBits s.cur.wp.toNat (spareBits s.spare s.splen.toNat w)).advanceWp w) := by
  rw [packspBody, if_neg, if_pos ((inRange_iff _ _ _).2 hin)]
  rw [Bool.or_eq_true, decide_eq_true_eq, decide_eq_true_eq]
  omega

/-- Settles O30: `SPLEN` is checked first, then the range; else the spare bits are laid at `WP`. -/
theorem packspResult : Obligations.PackspResult := by
  intro s n h w a len
  refine ⟨fun hlen => exec_error h rfl (packspBody_eq_config hlen w), fun hlow hhigh hout =>
    exec_error h rfl ((packspBody_eq_bmRange_iff s hlow hhigh w).2 hout), fun hlow hhigh hin => ?_⟩
  obtain ⟨hframe, hbits⟩ := layBits_spec s (spareBits s.spare len w)
  simp only [spareBits_length] at hframe hbits
  refine ⟨_, exec_ok h rfl (packspBody_eq_ok hlow hhigh hin), hframe, fun i hi => (hbits i hi).trans ?_⟩
  simp [spareBits]

/-! ### QSCALE -/

/-- The value `QSCALE` scales: `q[qa]`, under `SC` divided by `PI_Q` (R184). -/
def State.scaled (s : State) (qa : QReg) (sc : Bool) : Int :=
  if sc = true then Int.fdiv (s.qval qa * 2 ^ 64) 0x3243F6A8885A308D3 else s.qval qa

theorem scaleOperand_eq (s : State) (qa : QReg) (sc : Bool) :
    scaleOperand (s.qval qa) sc = pure (s.scaled qa sc) := by
  cases sc with
  | false => rfl
  | true => exact fxDiv_qval_pi s qa

theorem qscaleBody_eq (s : State) (rd : XReg) (qa : QReg) (k : BitVec 7) (sc : Bool) :
    let raw := scaledRaw (s.scaled qa sc) k.toInt
    qscaleBody rd qa k sc s =
      .ok ((s.setStatus (flagged (raw < -(2 ^ 63) ∨ 2 ^ 63 ≤ raw) .fovf s.status)).setX rd raw) := by
  intro raw
  have hfits : fitsS 64 raw = true ↔ ¬ (raw < -(2 ^ 63) ∨ 2 ^ 63 ≤ raw) := by
    rw [fitsS_iff, not_or, Int.not_lt, Int.not_le]
  rw [qscaleBody, scaleOperand_eq, ← raiseIf_not_eq_flagged .fovf _ _ _ hfits]
  rfl

/-- One unit of the scaled field is two half steps (R184). -/
theorem two_pow_scale {k : Int} (hk : k ≤ 63) : (2 : Int) ^ (64 - k).toNat = 2 * 2 ^ (63 - k).toNat := by
  rw [show (64 - k).toNat = (63 - k).toNat + 1 by omega, pow_succ']

/-- Floored division of the value plus half a step rounds to the nearest multiple, ties upward (R184). -/
theorem scaledRaw_bounds (v : Int) {k : Int} (hk : k ≤ 63) :
    let half : Int := 2 ^ (63 - k).toNat
    scaledRaw v k * (2 * half) - half ≤ v ∧ v < scaledRaw v k * (2 * half) + half := by
  intro half
  have hpos : 0 < 2 * half := by positivity
  have hraw : scaledRaw v k = (v + half) / (2 * half) := by
    rw [scaledRaw, two_pow_scale hk, fdiv, Int.fdiv_eq_ediv_of_nonneg _ hpos.le]
  have hlow := Int.ediv_mul_le (v + half) hpos.ne'
  have hhigh := Int.lt_ediv_add_one_mul_self (v + half) hpos
  rw [hraw]
  constructor <;> linarith

/-- A scale exponent is at most 63, so half a step is an integer (R184). -/
theorem scaleExponent_le (k : BitVec 7) : k.toInt ≤ 63 := by
  have := BitVec.toInt_lt (x := k)
  omega

/-- Settles O31: the register written is the rounded value, and nothing but the flag goes with it. -/
theorem qscaleResult : Obligations.QscaleResult := by
  intro s rd qa k7 sc h k half v
  obtain ⟨t, he, hframe, hreg, hst⟩ :=
    exec_ok_setX (i := .qscale rd qa k7 sc) h rfl (qscaleBody_eq s rd qa k7 sc)
  obtain ⟨hlow, hhigh⟩ := scaledRaw_bounds v (scaleExponent_le k7)
  exact ⟨t, scaledRaw v k, he, hframe, hlow, hhigh, hreg, hst⟩

/-! ### PWLQ -/

theorem selectSegment_eq_none {seg : Nat → Segment} {v n : Nat} (h : ∀ j, j < n → v < (seg j).lo) :
    selectSegment seg v n = none := by
  induction n with
  | zero => rfl
  | succ n ih =>
    rw [selectSegment, if_neg (Nat.not_le.2 (h n n.lt_succ_self))]
    exact ih fun j hj => h j (Nat.lt_succ_of_lt hj)

theorem selectSegment_eq_some {seg : Nat → Segment} {v n sel : Nat} (hsel : sel < n)
    (hle : (seg sel).lo ≤ v) (habove : ∀ j, sel < j → j < n → v < (seg j).lo) :
    selectSegment seg v n = some sel := by
  induction n with
  | zero => exact absurd hsel sel.not_lt_zero
  | succ n ih =>
    rcases Nat.lt_succ_iff_lt_or_eq.1 hsel with hlt | rfl
    · rw [selectSegment, if_neg (Nat.not_le.2 (habove n hlt n.lt_succ_self))]
      exact ih hlt fun j hj hjn => habove j hj (Nat.lt_succ_of_lt hjn)
    · rw [selectSegment, if_pos hle]

/-- The bounds that make `idx` the quotient of `d` by `step`, rounded down, or up under `U`. -/
theorem segmentIndex_eq {up : Bool} {d step idx : Nat} (hstep : 0 < step)
    (h : if up = true then d ≤ idx * step ∧ idx * step < d + step
      else idx * step ≤ d ∧ d < (idx + 1) * step) : segmentIndex up d step = idx := by
  have hpos : (0 : Int) < step := by exact_mod_cast hstep
  cases up with
  | true =>
    obtain ⟨hle, hlt⟩ := h
    have hquot : -(d : Int) / step = -idx := by
      rw [Int.ediv_eq_iff_of_pos hpos, Int.neg_mul]
      omega
    rw [segmentIndex, if_pos rfl, cdiv, Int.fdiv_eq_ediv_of_nonneg _ hpos.le, hquot, Int.neg_neg,
      Int.toNat_natCast]
  | false =>
    obtain ⟨hle, hlt⟩ := h
    rw [segmentIndex, if_neg Bool.false_ne_true, fdiv, Int.fdiv_eq_ediv_of_nonneg _ hpos.le,
      ← Int.natCast_ediv, Int.toNat_natCast, Nat.div_eq_of_lt_le hle hlt]

theorem quantise_of_below {seg : Nat → Segment} {n v : Nat} (up : Bool)
    (h : ∀ j, j < n → v < (seg j).lo) : quantise seg n v up = ((seg 0).base, true) := by
  rw [quantise, selectSegment_eq_none h]

/-- The code in segment `sel` at index `idx`: inside the segment, above the last one, or in a gap (R185). -/
theorem quantise_of_selected {seg : Nat → Segment} {n v sel idx : Nat} {up : Bool}
    (hsel : selectSegment seg v n = some sel)
    (hidx : segmentIndex up (v - (seg sel).lo) (seg sel).step = idx) :
    quantise seg n v up =
      if idx < (seg sel).cnt then ((seg sel).base + idx, false)
      else if sel = n - 1 then ((seg sel).base + (seg sel).cnt - 1, true)
      else ((seg (sel + 1)).base, false) := by
  rw [quantise, hsel, ← hidx]

/-- A code fits a register: the fields of a segment have at most 32 bits (R85). -/
theorem quantise_lt (s : State) (n v : Nat) (up : Bool) : (quantise s.segment n v up).1 < 2 ^ 64 := by
  have hbase : ∀ i, (s.segment i).base < 2 ^ 32 := fun i => (s.qtElement (4 * i + 2)).isLt
  have hcnt : ∀ i, (s.segment i).cnt < 2 ^ 32 := fun i => (s.qtElement (4 * i + 3)).isLt
  cases hsel : selectSegment s.segment v n with
  | none =>
    rw [quantise, hsel]
    exact (hbase 0).trans (by decide)
  | some i =>
    have := hbase i
    have := hbase (i + 1)
    have := hcnt i
    rw [quantise_of_selected hsel rfl]
    split_ifs <;> dsimp only <;> omega

/-- The two checks of `PWLQ` in the terms of claims (R185, R293). -/
theorem pwlqBody_eq (s : State) (rd ra : XReg) (up : Bool) :
    let r := quantise s.segment s.qtn.toNat (s.xval ra) up
    pwlqBody rd ra up s =
      if quantiserIllegal s then .error .config else .ok ((s.flagIf .fovf r.2).setX rd r.1) := by
  intro r
  have hsize : (decide (s.qtn.toNat < 1) || decide (8 < s.qtn.toNat)) = true ↔
      s.qtn.toNat < 1 ∨ 8 < s.qtn.toNat := by
    rw [Bool.or_eq_true, decide_eq_true_eq, decide_eq_true_eq]
  have hfields : ((List.range s.qtn.toNat).any fun i => (s.segment i).step == 0 || (s.segment i).cnt == 0) =
      true ↔ ∃ i, i < s.qtn.toNat ∧ ((s.segment i).step = 0 ∨ (s.segment i).cnt = 0) := by
    simp
  rw [pwlqBody]
  simp only [hsize, hfields]
  by_cases hqtn : s.qtn.toNat < 1 ∨ 8 < s.qtn.toNat
  · rw [if_pos hqtn, if_pos (hqtn.imp_right .inl)]
  · rw [if_neg hqtn]
    refine if_congr ⟨fun hex => .inr (.inr hex), fun hill => ?_⟩ rfl rfl
    exact (or_assoc.2 hill).resolve_left hqtn

/-- A legal table gives a code: the register takes it, and `FOVF` says whether it was clamped. -/
theorem exec_pwlq {s : State} (h : s.cur.fsr = 0) (hlegal : ¬ quantiserIllegal s) (rd ra : XReg) (up : Bool) :
    let r := quantise s.segment s.qtn.toNat (s.xval ra) up
    ∃ t, exec (.pwlq rd ra up) s = .next t ∧ onlyX s t rd ∧ (t.xreg rd).toNat = r.1 ∧
      t.status = raiseIf .fovf r.2 s.status := by
  intro r
  obtain ⟨t, he, hframe, hreg, hst⟩ := exec_ok_setX (i := .pwlq rd ra up) h rfl
    ((pwlqBody_eq s rd ra up).trans (if_neg hlegal))
  refine ⟨t, he, hframe, ?_, hst⟩
  rw [hreg, BitVec.ofInt_natCast, BitVec.toNat_ofNat, Nat.mod_eq_of_lt (quantise_lt s _ _ up)]

/-- Settles O32: a table that is not legal fails a check; else each case of the statement is a case of
`quantise`, read off the segment selected and the index in it. -/
theorem pwlqResult : Obligations.PwlqResult := by
  intro s rd ra up h n v
  refine ⟨fun hill => exec_error h rfl ((pwlqBody_eq s rd ra up).trans (if_pos hill)), fun hlegal => ?_⟩
  obtain ⟨t, he, hframe, hcode, hst⟩ := exec_pwlq h hlegal rd ra up
  refine ⟨t, he, hframe, fun hbelow => ?_, fun sel idx hsel hle habove hidx => ?_⟩
  · rw [hcode, hst, quantise_of_below up hbelow]
    exact ⟨rfl, rfl⟩
  · have hstep : 0 < (s.segment sel).step :=
      Nat.pos_of_ne_zero fun hzero => hlegal (.inr (.inr ⟨sel, hsel, .inl hzero⟩))
    rw [hcode, hst,
      quantise_of_selected (selectSegment_eq_some hsel hle habove) (segmentIndex_eq hstep hidx)]
    refine ⟨fun hin => ?_, fun hout hlast => ?_, fun hout hnext => ?_⟩
    · rw [if_pos hin]
      exact ⟨rfl, rfl⟩
    · rw [if_neg (Nat.not_lt.2 hout), if_pos (Nat.eq_sub_of_add_eq hlast)]
      exact ⟨rfl, rfl⟩
    · have hne : sel ≠ s.qtn.toNat - 1 := by omega
      rw [if_neg (Nat.not_lt.2 hout), if_neg hne]
      exact ⟨rfl, rfl⟩

/-! ### The round trip of a scaled field -/

/-- A run of bits laid most significant first reads back as their value (R11). -/
theorem bitsValue_msbBits (w v : Nat) : bitsValue (msbBits w v) = v % 2 ^ w := by
  induction w generalizing v with
  | zero => simp [msbBits, bitsValue, Nat.mod_one]
  | succ w ih =>
    have hlast : msbBits (w + 1) v = msbBits w (v / 2) ++ [v.testBit 0] := by
      simp only [msbBits, List.range_succ, List.map_append, List.map_cons, List.map_nil, Nat.testBit_div_two]
      congr 1
      · refine List.map_congr_left fun i hi => ?_
        rw [List.mem_range] at hi
        congr 1
        omega
      · simp
    have hbits : bitsValue (msbBits (w + 1) v) = 2 * bitsValue (msbBits w (v / 2)) + v % 2 := by
      rw [hlast, bitsValue, List.foldl_append, List.foldl_cons, List.foldl_nil, Nat.testBit_zero]
      rcases Nat.mod_two_eq_zero_or_one v with h | h <;> simp [h, bitsValue]
    rw [hbits, ih, Nat.pow_succ', Nat.mod_mul]
    omega

/-- What `MemRead` gives of a field of which each bit is known. -/
theorem State.memRead_of_bits {s : State} {a w v : Nat}
    (h : ∀ i, i < w → s.bit (a + i) = v.testBit (w - 1 - i)) : s.memRead a w = v % 2 ^ w := by
  rw [State.memRead, ← bitsValue_msbBits]
  congr 1
  exact List.map_congr_left fun i hi => h i (List.mem_range.1 hi)

/-- A signed value that fits `w` bits is the signed value of its low `w` bits. -/
theorem toInt_ofNat_mod_of_fits {n w : Nat} (hw : 0 < w) (hn : w ≤ n) {x : BitVec n}
    (hlow : -(2 ^ (w - 1)) ≤ x.toInt) (hhigh : x.toInt < 2 ^ (w - 1)) :
    (BitVec.ofNat w (x.toNat % 2 ^ w)).toInt = x.toInt :=
  calc (BitVec.ofNat w (x.toNat % 2 ^ w)).toInt
    _ = (x.toNat : Int).bmod (2 ^ w) := by
      rw [BitVec.toInt_ofNat', Int.natCast_mod, Int.emod_bmod]
    _ = x.toInt.bmod (2 ^ w) := by
      rw [BitVec.toInt_eq_toNat_bmod, Int.bmod_bmod_of_dvd (Nat.pow_dvd_pow 2 hn)]
    _ = (BitVec.ofInt w x.toInt).toInt := (BitVec.toInt_ofInt _).symm
    _ = x.toInt := BitVec.toInt_ofInt_eq_self hw hlow hhigh

/-- With `FOVF` clear after a check that may set it, the check passed and `FOVF` was clear before (R28). -/
theorem fovf_clear_of_flagged {c : Prop} [Decidable c] {st : BitVec 8}
    (h : (flagged c .fovf st).getLsbD 0 = false) : ¬ c ∧ st.getLsbD 0 = false := by
  by_cases hc : c
  · simp [flagged, hc, Flag.mask, Flag.bit] at h
  · exact ⟨hc, by rwa [flagged, if_neg hc] at h⟩

/-- What `PACK.S` leaves when it completes without `FOVF`: the field reads back as the register's signed
value, and `FOVF` was clear before. -/
theorem memRead_of_pack_signed {t u : State} {ra : XReg} {wm1 : BitVec 6} (h : t.cur.fsr = 0)
    (hu : exec (.pack ra true wm1) t = .next u) (hlast : u.lastst = 0)
    (hflag : u.status.getLsbD 0 = false) :
    (BitVec.ofNat (wm1.toNat + 1) (u.memRead t.cur.wp.toNat (wm1.toNat + 1))).toInt = t.xint ra ∧
      t.status.getLsbD 0 = false := by
  obtain ⟨hout, hin⟩ := packResult t ra true wm1 h
  have hfit : t.cur.wp.toNat + (wm1.toNat + 1) ≤ t.params.bmBits := by
    by_contra hgt
    obtain ⟨u', hu', hstate, -⟩ := hout (Nat.lt_of_not_le hgt)
    obtain rfl : u = u' := Host.Outcome.next.inj (hu.symm.trans hu')
    rw [hstate] at hlast
    exact absurd hlast (by decide : (3 : BitVec 8) ≠ 0)
  obtain ⟨u', hu', ⟨hstate, -⟩, hbits⟩ := hin hfit
  obtain rfl : u = u' := Host.Outcome.next.inj (hu.symm.trans hu')
  rw [hstate] at hflag
  obtain ⟨hfits, hbefore⟩ := fovf_clear_of_flagged hflag
  obtain ⟨hlow, hhigh⟩ := not_not.1 hfits
  have hread := State.memRead_of_bits (v := (t.xreg ra).toNat) hbits
  refine ⟨?_, hbefore⟩
  rw [hread]
  exact toInt_ofNat_mod_of_fits (Nat.succ_pos _) wm1.isLt hlow hhigh

/-- Settles O58: without `FOVF` the field read back is the rounded value itself, which is nearest to the
scaled one. -/
theorem qscaleRoundTrip : Obligations.QscaleRoundTrip := by
  intro s t u rd qa k7 wm1 h ht hu hlast hflag w back step
  obtain ⟨t', raw, ht', ⟨hstate, -⟩, hlow, hhigh, hreg, hst⟩ := qscaleResult s rd qa k7 false h
  obtain rfl : t = t' := Host.Outcome.next.inj (ht.symm.trans ht')
  have hcur : t.cur = s.cur := by rw [hstate]; rfl
  obtain ⟨hback, hbefore⟩ := memRead_of_pack_signed (by rw [hcur, h]) hu hlast hflag
  rw [hst] at hbefore
  obtain ⟨hraw, -⟩ := fovf_clear_of_flagged hbefore
  obtain ⟨hrawLow, hrawHigh⟩ := not_or.1 hraw
  have heq : back = raw := by
    rw [hcur, State.xint, hreg] at hback
    exact hback.trans (BitVec.toInt_ofInt_eq_self (by decide) (Int.not_lt.1 hrawLow) (Int.not_le.1 hrawHigh))
  simp only [Bool.false_eq_true, if_false] at hlow hhigh
  rw [heq, show step = 2 * 2 ^ (63 - k7.toInt).toNat from two_pow_scale (scaleExponent_le k7)]
  constructor <;> linarith

end Sys2Proof.Machine

/-! The sequencer (42_sequencer.md): times and bit indices, the frame cursor, the table lookups, and the
copying of runs of BM. -/

namespace Sys2Proof.Machine

/-! ### Times and bit indices -/

/-- The ceiling of R9 is the least integer whose multiple reaches the dividend. -/
theorem cdiv_le_iff {m : Int} (hm : 0 < m) (x k : Int) : cdiv x m ≤ k ↔ x ≤ k * m := by
  rw [cdiv, Int.fdiv_eq_ediv_of_nonneg _ hm.le, neg_le, Int.le_ediv_iff_mul_le hm, Int.neg_mul,
    neg_le_neg_iff]

/-- A bit index is at least that of a time exactly when the bit starts at or after the time (R201). -/
theorem timeToBit_le_iff {hz : Nat} (hhz : 0 < hz) (t k : Int) (br : Nat) :
    timeToBit t br hz ≤ k ↔ t * br ≤ k * hz :=
  cdiv_le_iff (Int.natCast_pos.2 hhz) (t * br) k

theorem lt_timeToBit_iff {hz : Nat} (hhz : 0 < hz) (t k : Int) (br : Nat) :
    k < timeToBit t br hz ↔ k * hz < t * br := by
  rw [← Int.not_le, timeToBit_le_iff hhz, Int.not_le]

/-- Settles O57: a bit starts at or after each end of the interval exactly when its index has reached that
of the end. -/
theorem sliceBitsPartition : Obligations.SliceBitsPartition := by
  intro start stop k br hz _ hhz
  rw [timeToBit_le_iff hhz, lt_timeToBit_iff hhz]

theorem toNat_eq_zero_iff {n : Nat} {v : BitVec n} : v.toNat = 0 ↔ v = 0 := by
  rw [← BitVec.toNat_inj, BitVec.ofNat_eq_ofNat, BitVec.toNat_zero]

/-- The checks of `T2B` in the terms of claims (R201, R293), and the flag of its value. -/
theorem t2bBody_eq (s : State) (rd ra : XReg) :
    let k := timeToBit (s.xint ra) s.cur.br.toNat s.tickHz.toNat
    t2bBody rd ra s = if tickIllegal s ∨ s.cur.br = 0 then .error .config
      else .ok ((s.setStatus (flagged (k < -(2 ^ 63) ∨ 2 ^ 63 ≤ k) .iovf s.status)).setX rd k) := by
  intro k
  have hfits : fitsS 64 k = true ↔ ¬ (k < -(2 ^ 63) ∨ 2 ^ 63 ≤ k) := by
    rw [fitsS_iff, not_or, Int.not_lt, Int.not_le]
  rw [← raiseIf_not_eq_flagged .iovf _ _ _ hfits]
  exact if_congr (by rw [Bool.or_eq_true, decide_eq_true_eq, badTick_iff,
    toNat_eq_zero_iff]) rfl rfl

/-- Settles O38: the register takes the least bit index that is not before the time. -/
theorem t2bResult : Obligations.T2bResult := by
  intro s rd ra h
  refine ⟨fun hill => exec_error h rfl ((t2bBody_eq s rd ra).trans (if_pos hill)), fun htick hbr => ?_⟩
  obtain ⟨t, he, hframe, hreg, hst⟩ := exec_ok_setX (i := .t2b rd ra) h rfl
    ((t2bBody_eq s rd ra).trans (if_neg (not_or.2 ⟨htick, hbr⟩)))
  have hhz : 0 < s.tickHz.toNat := Nat.pos_of_ne_zero fun hzero => htick (.inl hzero)
  exact ⟨t, _, he, hframe, hreg, (lt_timeToBit_iff hhz _ _ _).1 (sub_one_lt _),
    (timeToBit_le_iff hhz _ _ _).1 le_rfl, hst⟩

/-! ### The frame cursor -/

/-- The slot of the frame the cursor stands at: page part, page and subframe (R49, R200). -/
def Context.slot (c : Context) : Nat × Nat × Nat := (c.pp.toNat, c.pg.toNat, c.sf.toNat)

/-- The slot of the page part numbered `part`: its mixed-radix digits (R202). -/
def Context.slotOf (c : Context) (part : Nat) : Nat × Nat × Nat :=
  (part % c.npp.toNat, part / c.npp.toNat % c.pgs.toNat,
    part / (c.npp.toNat * c.pgs.toNat) % c.sfs.toNat)

/-- The slot one page part on (R203). -/
def Context.slotAfter (c : Context) : Nat × Nat × Nat → Nat × Nat × Nat
  | (pp, pg, sf) =>
    if pp + 1 < c.npp.toNat then (pp + 1, pg, sf)
    else if pg + 1 < c.pgs.toNat then (0, pg + 1, sf)
    else if sf + 1 < c.sfs.toNat then (0, 0, sf + 1) else (0, 0, 0)

theorem Context.slot_eq_iff {c d : Context} :
    c.slot = d.slot ↔ c.pp = d.pp ∧ c.pg = d.pg ∧ c.sf = d.sf := by
  simp only [slot, Prod.mk.injEq, BitVec.toNat_inj]

/-- The sizes a legal geometry has (R46). -/
theorem geometry_sizes {c : Context} (h : ¬ geometryIllegal c) :
    (c.npp.toNat = 1 ∨ c.npp.toNat = 2) ∧ (1 ≤ c.pgs.toNat ∧ c.pgs.toNat ≤ 64) ∧
      1 ≤ c.sfs.toNat ∧ c.sfs.toNat ≤ 64 := by
  unfold geometryIllegal at h
  omega

/-- The next slot depends on the sizes of the geometry alone. -/
theorem Context.slotAfter_congr {c d : Context} (hnpp : d.npp = c.npp) (hpgs : d.pgs = c.pgs)
    (hsfs : d.sfs = c.sfs) (p : Nat × Nat × Nat) : d.slotAfter p = c.slotAfter p := by
  unfold slotAfter
  rw [hnpp, hpgs, hsfs]

/-- In a legal geometry each digit fits the register it is written to (R202). -/
theorem Context.slot_seekTo {c : Context} (h : ¬ geometryIllegal c) (k : Nat) :
    (c.seekTo k).slot = c.slotOf (k / c.ppb.toNat) := by
  obtain ⟨hnpp, ⟨hpgs, hpgsMax⟩, hsfs, hsfsMax⟩ := geometry_sizes h
  have hfits (n : Nat) {size w : Nat} (hpos : 0 < size) (hmax : size ≤ 2 ^ w) :
      (BitVec.ofNat w (n % size)).toNat = n % size :=
    Nat.mod_eq_of_lt ((Nat.mod_lt n hpos).trans_le hmax)
  rw [slot, slotOf, seekTo, hfits _ (by omega) (by omega), hfits _ hpgs hpgsMax, hfits _ hsfs hsfsMax]

/-- In a legal geometry `ADV` goes one page part on (R203). -/
theorem Context.slot_advance {c : Context} (h : ¬ geometryIllegal c) :
    c.advance.slot = c.slotAfter c.slot := by
  obtain ⟨hnpp, ⟨-, hpgsMax⟩, -, hsfsMax⟩ := geometry_sizes h
  have hfits {n size w : Nat} (hlt : n < size) (hmax : size ≤ 2 ^ w) : (BitVec.ofNat w n).toNat = n :=
    Nat.mod_eq_of_lt (hlt.trans_le hmax)
  change c.advance.slot = c.slotAfter (c.pp.toNat, c.pg.toNat, c.sf.toNat)
  rw [advance, slotAfter]
  split_ifs with hpp hpg hsf
  · rw [slot, hfits hpp (by omega)]
  · rw [slot, hfits hpg hpgsMax]; rfl
  · rw [slot, hfits hsf hsfsMax]; rfl
  · rfl

theorem Context.boff_advance (c : Context) : c.advance.boff = 0 := by
  unfold advance
  split_ifs <;> rfl

/-- `ADV` changes the cursor only. -/
theorem Context.advance_eq (c : Context) :
    c.advance = { c with boff := 0, pp := c.advance.pp, pg := c.advance.pg, sf := c.advance.sf } := by
  conv_lhs => rw [c.advance_eq_writtenBy]
  rw [← c.boff_advance]
  rfl

/-- One more: the low digit goes up, or wraps to 0 and carries. -/
theorem succ_mod_div {m : Nat} (hm : 0 < m) (n : Nat) :
    (n % m + 1 < m → (n + 1) % m = n % m + 1 ∧ (n + 1) / m = n / m) ∧
      (¬ n % m + 1 < m → (n + 1) % m = 0 ∧ (n + 1) / m = n / m + 1) := by
  have hn := Nat.div_add_mod n m
  have hlt := Nat.mod_lt n hm
  refine ⟨fun h => ?_, fun h => ?_⟩
  · exact ((Nat.div_mod_unique hm).2 ⟨by omega, h⟩).symm
  · refine ((Nat.div_mod_unique hm).2 ⟨?_, hm⟩).symm
    rw [Nat.mul_succ]
    omega

/-- The page part numbered one higher is the next one in the frame (R204). -/
theorem Context.slotOf_succ {c : Context} (h : ¬ geometryIllegal c) (part : Nat) :
    c.slotOf (part + 1) = c.slotAfter (c.slotOf part) := by
  obtain ⟨hnpp, ⟨hpgs, -⟩, hsfs, -⟩ := geometry_sizes h
  simp only [slotOf, slotAfter, ← Nat.div_div_eq_div_mul]
  obtain ⟨hppStep, hppWrap⟩ := succ_mod_div (m := c.npp.toNat) (by omega) part
  obtain ⟨hpgStep, hpgWrap⟩ := succ_mod_div hpgs (part / c.npp.toNat)
  obtain ⟨hsfStep, hsfWrap⟩ := succ_mod_div hsfs (part / c.npp.toNat / c.pgs.toNat)
  split_ifs with hpp hpg hsf
  · simp only [hppStep hpp]
  · simp only [hppWrap hpp, hpgStep hpg]
  · simp only [hppWrap hpp, hpgWrap hpg, hsfStep hsf]
  · simp only [hppWrap hpp, hpgWrap hpg, hsfWrap hsf]

/-- The geometry is the same wherever the cursor is walked to. -/
theorem Context.geometry_iterate_advance (c : Context) (m : Nat) :
    (advance^[m] c).npp = c.npp ∧ (advance^[m] c).pgs = c.pgs ∧ (advance^[m] c).sfs = c.sfs := by
  induction m with
  | zero => exact ⟨rfl, rfl, rfl⟩
  | succ m ih =>
    rw [Function.iterate_succ_apply', (advance^[m] c).advance_eq]
    exact ih

/-- A walk of `m` page parts from the part numbered `part` ends at the part numbered `part + m` (R204). -/
theorem Context.slot_iterate_advance {c : Context} (h : ¬ geometryIllegal c) {part : Nat}
    (hstart : c.slot = c.slotOf part) (m : Nat) :
    (advance^[m] c).slot = c.slotOf (part + m) := by
  induction m with
  | zero => exact hstart
  | succ m ih =>
    obtain ⟨hnpp, hpgs, hsfs⟩ := c.geometry_iterate_advance m
    have hlegal : ¬ geometryIllegal (advance^[m] c) := by rwa [geometryIllegal, hnpp, hpgs, hsfs]
    calc (advance^[m + 1] c).slot
      _ = (advance (advance^[m] c)).slot := by rw [Function.iterate_succ_apply']
      _ = c.slotAfter (c.slotOf (part + m)) := by
        rw [slot_advance hlegal, ih, slotAfter_congr hnpp hpgs hsfs]
      _ = c.slotOf (part + (m + 1)) := (slotOf_succ h _).symm

/-- Walking `m` page parts from where `SEEK` of `k` leaves the cursor is seeking `m` page parts further. -/
theorem Context.slot_walk_eq_seek {c : Context} (hppb : c.ppb ≠ 0) (h : ¬ geometryIllegal c) (k m : Nat) :
    (advance^[m] (c.seekTo k)).slot = (c.seekTo (k + m * c.ppb.toNat)).slot := by
  have hpos : 0 < c.ppb.toNat := Nat.pos_of_ne_zero (mt toNat_eq_zero_iff.1 hppb)
  calc (advance^[m] (c.seekTo k)).slot
    _ = c.slotOf (k / c.ppb.toNat + m) := slot_iterate_advance (c := c.seekTo k) h (slot_seekTo h k) m
    _ = c.slotOf ((k + m * c.ppb.toNat) / c.ppb.toNat) := by rw [Nat.add_mul_div_right _ _ hpos]
    _ = (c.seekTo (k + m * c.ppb.toNat)).slot := (slot_seekTo h _).symm

/-! ### SEEK and ADV -/

theorem seekBody_eq (s : State) (ra : XReg) :
    seekBody ra s = if s.cur.ppb = 0 ∨ geometryIllegal s.cur then .error .config
      else .ok (s.setCur (s.cur.seekTo (s.xval ra))) :=
  if_congr (by rw [Bool.or_eq_true, decide_eq_true_eq, badGeometry_iff, toNat_eq_zero_iff]) rfl rfl

theorem advBody_eq (s : State) :
    advBody s = if geometryIllegal s.cur then .error .config else .ok (s.setCur s.cur.advance) :=
  if_congr (badGeometry_iff s.cur) rfl rfl

/-- `SEEK` with a legal configuration leaves the current context with its cursor moved, and nothing else. -/
theorem exec_seek {s : State} (h : s.cur.fsr = 0) (hppb : s.cur.ppb ≠ 0) (hgeo : ¬ geometryIllegal s.cur)
    (ra : XReg) : ∃ t, exec (.seek ra) s = .next t ∧ onlyCur s t (s.cur.seekTo (s.xval ra)) :=
  ⟨_, exec_ok h rfl ((seekBody_eq s ra).trans (if_neg (not_or.2 ⟨hppb, hgeo⟩))), onlyCur_setCur s _⟩

theorem exec_adv {s : State} (h : s.cur.fsr = 0) (hgeo : ¬ geometryIllegal s.cur) :
    ∃ t, exec .adv s = .next t ∧ onlyCur s t s.cur.advance :=
  ⟨_, exec_ok h rfl ((advBody_eq s).trans (if_neg hgeo)), onlyCur_setCur s _⟩

/-- The bit offset `SEEK` leaves fits its register (R202). -/
theorem Context.boff_seekTo {c : Context} (hppb : c.ppb ≠ 0) (k : Nat) :
    (c.seekTo k).boff.toNat = k % c.ppb.toNat := by
  have hpos : 0 < c.ppb.toNat := Nat.pos_of_ne_zero (mt toNat_eq_zero_iff.1 hppb)
  exact Nat.mod_eq_of_lt ((Nat.mod_lt k hpos).trans c.ppb.isLt)

/-- Settles O39: each command fails its check of the configuration, or moves the cursor as R202 and R203
say. -/
theorem cursorResult : Obligations.CursorResult := by
  intro s ra h c parts
  refine ⟨fun hill => exec_error h rfl ((seekBody_eq s ra).trans (if_pos hill)), fun hppb hgeo => ?_,
    fun hill => exec_error h rfl ((advBody_eq s).trans (if_pos hill)), fun hgeo => ?_⟩
  · obtain ⟨t, he, hframe⟩ := exec_seek h hppb hgeo ra
    obtain ⟨-, -, hcur⟩ := id hframe
    obtain ⟨hpp, hrest⟩ := Prod.mk.inj (Context.slot_seekTo hgeo (s.xval ra))
    obtain ⟨hpg, hsf⟩ := Prod.mk.inj hrest
    refine ⟨t, he, ?_⟩
    rw [hcur]
    exact ⟨hframe, Context.boff_seekTo hppb _, hpp, hpg, hsf⟩
  · obtain ⟨t, he, hframe⟩ := exec_adv h hgeo
    obtain ⟨-, -, hcur⟩ := id hframe
    refine ⟨t, he, ?_⟩
    rw [hcur, ← c.advance_eq]
    exact ⟨hframe, Context.slot_advance hgeo⟩

/-- Settles O52: seeking numbers the page parts, and each advance goes on to the part numbered one higher. -/
theorem seekThenAdvance : Obligations.SeekThenAdvance := by
  have hwalk {c : Context} (hppb : c.ppb ≠ 0) (hgeo : ¬ geometryIllegal c) (k m : Nat) :=
    Context.slot_eq_iff.1 (Context.slot_walk_eq_seek hppb hgeo k m)
  refine ⟨fun s ra rb h hppb hgeo hsum => ?_, fun c k m hppb hgeo => ?_⟩
  · obtain ⟨t, ht, -, -, hcurT⟩ := exec_seek h hppb hgeo ra
    obtain ⟨u, hu, -, -, hcurU⟩ := exec_adv (s := t) (by rw [hcurT]; exact h) (by rw [hcurT]; exact hgeo)
    obtain ⟨v, hv, -, -, hcurV⟩ := exec_seek h hppb hgeo rb
    obtain ⟨hpp, hpg, hsf⟩ := hwalk hppb hgeo (s.xval ra) 1
    rw [hcurT] at hcurU
    rw [Nat.one_mul, ← hsum] at hpp hpg hsf
    refine ⟨t, u, v, ht, hu, hv, ?_⟩
    rw [hcurU, hcurV]
    exact ⟨hsf, hpg, hpp, Context.boff_advance _⟩
  · obtain ⟨hpp, hpg, hsf⟩ := hwalk hppb hgeo k m
    exact ⟨hsf, hpg, hpp⟩

/-! ### The table lookups -/

/-- A byte of a 16-bit table entry is its remainder or its quotient by 256 (R85). -/
theorem State.wordType_eq (s : State) :
    s.wordType = if s.cur.sf.toNat % 2 = 0 then (s.pftEntry s.cur.pg.toNat).toNat % 256
      else (s.pftEntry s.cur.pg.toNat).toNat / 256 := by
  have hlt := (s.pftEntry s.cur.pg.toNat).isLt
  refine if_congr Iff.rfl ?_ ?_
  · rw [BitVec.extractLsb'_toNat, Nat.shiftRight_zero]
  · rw [BitVec.extractLsb'_toNat, Nat.shiftRight_eq_div_pow]
    omega

/-- A command that writes a number that fits one operand register, and no flag. -/
theorem exec_ok_setX_nat {i : Instr} {s : State} {body : State → Except Cause State} {rd : XReg} {n : Nat}
    (h : s.cur.fsr = 0) (he : exec i s = .next (s.runCommand (encode i) body))
    (hb : body s = .ok (s.setX rd n)) (hn : n < 2 ^ 64) :
    ∃ t, exec i s = .next t ∧ onlyX s t rd ∧ t.status = s.status ∧ (t.xreg rd).toNat = n := by
  obtain ⟨t, hexec, hframe, hreg, hst⟩ := exec_ok_setX (st := s.status) h he hb
  refine ⟨t, hexec, hframe, hst, ?_⟩
  rw [hreg, BitVec.ofInt_natCast, BitVec.toNat_ofNat, Nat.mod_eq_of_lt hn]

/-- Settles O40: the byte looked up fits the register. -/
theorem tableLookups : Obligations.TableLookups := by
  intro s rd h
  constructor
  · have hbyte : s.wordType < 2 ^ 64 := by
      unfold State.wordType
      split <;> exact (BitVec.isLt _).trans (by decide)
    rw [← s.wordType_eq]
    exact exec_ok_setX_nat (i := .wtype rd) h rfl rfl hbyte
  · exact exec_ok_setX_nat (i := .almidx rd) h rfl rfl ((BitVec.isLt _).trans (by decide))

/-! ### Copies of runs of BM -/

/-- A command that writes a run of bits of BM. -/
theorem exec_ok_writeBits {i : Instr} {s : State} {body : State → Except Cause State} {a : Nat}
    {bs : List Bool} (h : s.cur.fsr = 0) (he : exec i s = .next (s.runCommand (encode i) body))
    (hb : body s = .ok (s.writeBits a bs)) :
    ∃ t, exec i s = .next t ∧ onlyBm s t a bs.length ∧ ∀ k (hk : k < bs.length), t.bit (a + k) = bs[k] :=
  ⟨_, exec_ok h he hb, onlyBm_writeBits s a bs, (s.writeBits_spec a bs).2⟩

theorem bcopyBody_eq_ok {s : State} {rd ra rb : XReg}
    (hsrc : s.xval ra + s.xval rb ≤ s.params.bmBits) (hdst : s.xval rd + s.xval rb ≤ s.params.bmBits) :
    bcopyBody rd ra rb s = .ok (s.writeBits (s.xval rd) (s.bits (s.xval ra) (s.xval rb))) :=
  if_pos (by rw [Bool.and_eq_true, inRange_iff, inRange_iff]; exact ⟨hsrc, hdst⟩)

/-- Settles O41: the run written is the run read in the state before the write. -/
theorem bcopyResult : Obligations.BcopyResult := by
  intro s rd ra rb h src dst n
  refine ⟨fun hout => exec_error h rfl ((bcopyBody_eq_bmRange_iff s rd ra rb).2 hout), fun hsrc hdst => ?_⟩
  obtain ⟨t, he, hframe, hbits⟩ := exec_ok_writeBits (i := .bcopy rd ra rb) h rfl (bcopyBody_eq_ok hsrc hdst)
  rw [State.bits_length] at hframe
  refine ⟨t, he, hframe, fun i hi => (hbits i (by rwa [State.bits_length])).trans ?_⟩
  simp [State.bits, src]

theorem tileBody_eq_ok {s : State} {rd ra rb re : XReg} (rc : XReg) (hlen : s.xval rb ≠ 0)
    (hsrc : s.xval ra + s.xval rb ≤ s.params.bmBits) (hdst : s.xval rd + s.xval re ≤ s.params.bmBits) :
    tileBody rd ra rb rc re s =
      .ok (s.writeBits (s.xval rd) (s.tileBits (s.xval ra) (s.xval rb) (s.xval rc) (s.xval re))) := by
  rw [tileBody, if_neg hlen, if_pos]
  rw [Bool.and_eq_true, inRange_iff, inRange_iff]
  exact ⟨hsrc, hdst⟩

/-- Settles O42: the length is checked first, then the ranges; the run written is the pattern read in the
state before the write. -/
theorem tileResult : Obligations.TileResult := by
  intro s rd ra rb rc re h dst base len n
  refine ⟨fun hzero => exec_error (c := .config) h rfl (if_pos hzero), fun hlen hout => exec_error h rfl
    ((tileBody_eq_bmRange_iff s rd ra rc re (mt (s.xval_eq_zero_iff rb).2 hlen)).2 hout),
    fun hlen hsrc hdst => ?_⟩
  obtain ⟨t, he, hframe, hbits⟩ :=
    exec_ok_writeBits (i := .tile rd ra rb rc re) h rfl (tileBody_eq_ok rc hlen hsrc hdst)
  rw [State.tileBits_length] at hframe
  refine ⟨t, he, hframe, fun k hk => (hbits k (by rwa [State.tileBits_length])).trans ?_⟩
  simp [State.tileBits, base, len]

end Sys2Proof.Machine

/-! The FEC primitives (43_fec.md) but for `CONV`, and the clearing of a context: the remainder of a run and its
self check, the flush of the encoder, the interleaver's permutation and its ring. -/

namespace Sys2Proof.Machine

/-! ### Commands that replace the current context -/

/-- A command that replaces the current context. -/
theorem exec_ok_setCur {i : Instr} {s : State} {body : State → Except Cause State} {c : Context}
    (h : s.cur.fsr = 0) (he : exec i s = .next (s.runCommand (encode i) body))
    (hb : body s = .ok (s.setCur c)) : ∃ t, exec i s = .next t ∧ onlyCur s t c :=
  ⟨_, exec_ok h he hb, onlyCur_setCur s c⟩

/-- Replacing the current context again leaves only the last replacement. -/
theorem onlyCur.setCur {s t : State} {c : Context} (h : onlyCur s t c) (d : Context) :
    onlyCur s (t.setCur d) d := by
  obtain ⟨hframe, hothers, -⟩ := h
  have hctx : t.ctx = s.ctx := by rw [hframe]
  refine ⟨?_, fun k hk => ?_, State.cur_setCur t d⟩
  · rw [hframe]; rfl
  · rw [State.bank_setCur, hctx, if_neg hk, hothers k hk]

/-- `CTXCLR` replaces the current context three times over (R281). -/
theorem onlyCur_restart (s : State) :
    onlyCur s (s.runExempt fun s => s.clearFault.clearSignal.clearFec) { s.cur with
      fsr := 0, finfo := 0, sigt := 0, sigv := 0, csr := 0, iwr := 0, ird := 0, crcr := 0 } := by
  have hframe := (onlyCur_setCur s { s.cur with fsr := 0, finfo := 0 }).setCur
    { s.cur with fsr := 0, finfo := 0, sigt := 0, sigv := 0 } |>.setCur { s.cur with
      fsr := 0, finfo := 0, sigt := 0, sigv := 0, csr := 0, iwr := 0, ird := 0, crcr := 0 }
  simp only [State.runExempt_eq, State.clearFec, State.clearSignal, State.clearFault, State.cur_setCur]
  exact hframe

/-- Settles O26: `CTXCLR` is exempt from the refusal of R296, `FECRST` completes past it. -/
theorem clearingCommands : Obligations.ClearingCommands := fun s =>
  ⟨⟨_, rfl, onlyCur_restart s⟩, fun h => exec_ok_setCur (i := .fecrst) h rfl rfl⟩

/-! ### The remainder -/

theorem crcStep_eq (poly crc : BitVec 24) (b : Bool) :
    crcStep poly crc b = if xor (crc.getLsbD 23) b = true then BitVec.ofNat 24 (crc.toNat * 2) ^^^ poly
      else BitVec.ofNat 24 (crc.toNat * 2) := by
  have hdouble : crc <<< 1 = BitVec.ofNat 24 (crc.toNat * 2) := by
    apply BitVec.eq_of_toNat_eq
    rw [BitVec.toNat_shiftLeft, BitVec.toNat_ofNat, Nat.shiftLeft_eq, pow_one]
  rw [crcStep, hdouble]

theorem crcBits_append (poly crc : BitVec 24) (bs cs : List Bool) :
    crcBits poly crc (bs ++ cs) = crcBits poly (crcBits poly crc bs) cs :=
  List.foldl_append

/-- An input bit equal to the top bit of the remainder feeds nothing back (R230). -/
theorem crcStep_top (poly crc : BitVec 24) : crcStep poly crc (crc.getLsbD 23) = crc <<< 1 := by
  rw [crcStep, Bool.xor_self, if_neg Bool.false_ne_true]

/-- A remainder fed its own top `k` bits shifts them out. -/
theorem crcBits_own (poly crc : BitVec 24) {k : Nat} (hk : k ≤ 24) :
    crcBits poly crc ((List.range k).map fun i => crc.getLsbD (23 - i)) = crc <<< k := by
  induction k with
  | zero => exact (BitVec.shiftLeft_zero crc).symm
  | succ k ih =>
    have htop : (crc <<< k).getLsbD 23 = crc.getLsbD (23 - k) := by
      rw [BitVec.getLsbD_shiftLeft]
      simp [show ¬ 23 < k by omega]
    rw [List.range_succ, List.map_append, crcBits_append, ih (Nat.le_of_succ_le hk), BitVec.shiftLeft_add,
      ← crcStep_top poly (crc <<< k), htop]
    rfl

/-- Settles O56: the 24 bits of the remainder shift it out of the register whole. -/
theorem crcSelfCheck : Obligations.CrcSelfCheck := by
  intro poly bits
  rw [crcBits_append]
  calc crcBits poly (crcBits poly 0 bits) (msbBits 24 (crcBits poly 0 bits).toNat)
      = crcBits poly 0 bits <<< 24 := crcBits_own poly _ le_rfl
    _ = 0 := BitVec.shiftLeft_eq_zero le_rfl

theorem crc24Body_eq_ok {s : State} {ra rb : XReg} (cont : Bool)
    (hin : s.xval ra + s.xval rb ≤ s.params.bmBits) :
    crc24Body ra rb cont s = .ok (s.setCur { s.cur with
      crcr := crcBits s.crcPoly (if cont then s.cur.crcr else 0) (s.bits (s.xval ra) (s.xval rb)) }) :=
  if_pos ((inRange_iff _ _ _).2 hin)

/-- Settles O33: outside BM the range check fails; inside, the remainder is folded over the run by the step of
R230. -/
theorem crc24Result : Obligations.Crc24Result := by
  intro s ra rb cont h step1
  have hstep : crcStep s.crcPoly = step1 := funext₂ (crcStep_eq s.crcPoly)
  refine ⟨fun hout => exec_error h rfl ((crc24Body_eq_bmRange_iff s ra rb cont).2 hout), fun hin => ?_⟩
  rw [← hstep]
  exact exec_ok_setCur (i := .crc24 ra rb cont) h rfl (crc24Body_eq_ok cont hin)

/-- Settles O34: `CRCPUT` packs the remainder as a field of 24 bits. -/
theorem crcputResult : Obligations.CrcputResult := by
  intro s h a
  obtain ⟨hout, hin⟩ := packField_spec 24 s.cur.crcr.toNat s
  refine ⟨fun hlt => exec_error h rfl (hout hlt), fun hle => ?_⟩
  obtain ⟨t, hbody, hframe, hbits⟩ := hin hle
  exact ⟨_, exec_ok (body := fun s => packField 24 s.cur.crcr.toNat s) h rfl hbody, hframe, hbits⟩

/-! ### The encoder in pieces -/

theorem convRun_append (cfg : BitVec 17) (csr : BitVec 6) (us vs : List Bool) :
    convRun cfg csr (us ++ vs) =
      ((convRun cfg (convRun cfg csr us).1 vs).1,
        (convRun cfg csr us).2 ++ (convRun cfg (convRun cfg csr us).1 vs).2) := by
  induction us generalizing csr with
  | nil => rfl
  | cons u us ih =>
    simp only [List.cons_append, convRun]
    rw [ih]

/-- A zero input shifts the register down by one (R233). -/
theorem convStep_false_csr (cfg : BitVec 17) (csr : BitVec 6) : (convStep cfg csr false).1 = csr >>> 1 := by
  refine BitVec.eq_of_getLsbD_eq fun k hk => ?_
  rw [getLsbD_convStep cfg csr false hk, BitVec.getLsbD_ushiftRight, Nat.add_comm 1 k]
  split
  · next htop => rw [htop, BitVec.getLsbD_of_ge csr 6 le_rfl]
  · rfl

theorem convRun_zeros_csr (cfg : BitVec 17) (csr : BitVec 6) (n : Nat) :
    (convRun cfg csr (List.replicate n false)).1 = csr >>> n := by
  induction n generalizing csr with
  | zero => exact (BitVec.ushiftRight_zero csr).symm
  | succ n ih =>
    rw [List.replicate_succ, convRun]
    exact (ih _).trans (by rw [convStep_false_csr, ← BitVec.shiftRight_add, Nat.add_comm])

/-- Settles O53: a run splits anywhere, and six zeros shift the register out. -/
theorem encoderLaws : Obligations.EncoderLaws := by
  intro cfg csr us vs
  refine ⟨convRun_append cfg csr us vs, ?_⟩
  rw [convRun_append, convRun_zeros_csr]
  exact BitVec.ushiftRight_eq_zero le_rfl

/-! ### The permutation -/

/-- Transposing a table of `rows` rows and `cols` columns: the position stays in the table, and its row and
column are those of the position it came from, exchanged. -/
theorem transpose_position {rows cols o : Nat} (ho : o < rows * cols) :
    o % cols * rows + o / cols < rows * cols ∧ (o % cols * rows + o / cols) % rows = o / cols ∧
      (o % cols * rows + o / cols) / rows = o % cols := by
  have hcols : 0 < cols := Nat.pos_of_mul_pos_left (Nat.zero_lt_of_lt ho)
  have hrow : o / cols < rows := Nat.div_lt_of_lt_mul (by rwa [Nat.mul_comm])
  have hcol : o % cols < cols := Nat.mod_lt o hcols
  refine ⟨?_, ?_, ?_⟩
  · calc o % cols * rows + o / cols < (o % cols + 1) * rows := by rw [Nat.succ_mul]; omega
      _ ≤ cols * rows := Nat.mul_le_mul_right rows hcol
      _ = rows * cols := Nat.mul_comm cols rows
  · rw [Nat.mul_add_mod', Nat.mod_eq_of_lt hrow]
  · rw [Nat.mul_comm, Nat.mul_add_div (Nat.zero_lt_of_lt hrow), Nat.div_eq_of_lt hrow, Nat.add_zero]

/-- The two directions are one permutation with rows and columns exchanged (R236). -/
theorem ilvPerm_not (rows cols : Nat) (dir : Bool) : ilvPerm rows cols (!dir) = ilvPerm cols rows dir := by
  cases dir <;> rfl

theorem ilvPerm_lt {rows cols o : Nat} (dir : Bool) (ho : o < rows * cols) :
    ilvPerm rows cols dir o < rows * cols := by
  cases dir with
  | false => exact (transpose_position ho).1
  | true =>
    rw [Nat.mul_comm] at ho ⊢
    exact (transpose_position ho).1

theorem ilvPerm_not_ilvPerm {rows cols o : Nat} (dir : Bool) (ho : o < rows * cols) :
    ilvPerm rows cols (!dir) (ilvPerm rows cols dir o) = o := by
  have hback {r c : Nat} (ho : o < r * c) : (o % c * r + o / c) % r * c + (o % c * r + o / c) / r = o := by
    obtain ⟨-, hmod, hdiv⟩ := transpose_position ho
    rw [hmod, hdiv, Nat.div_add_mod']
  rw [ilvPerm_not]
  cases dir with
  | false => exact hback ho
  | true => exact hback (by rwa [Nat.mul_comm])

/-- Settles O54: the permutation transposes the block, and the other direction transposes it back. -/
theorem interleaverPermutation : Obligations.InterleaverPermutation := fun _ _ dir _ ho =>
  ⟨ilvPerm_lt dir ho, ilvPerm_not_ilvPerm dir ho⟩

/-! ### The interleaver's store -/

/-- A cursor taken modulo a legal block size fits its register (R48). -/
theorem toNat_ofNat_mod_ilvSize {c : Context} (hlegal : ¬ interleaverIllegal c) (n : Nat) :
    (BitVec.ofNat 11 (n % ilvSize c.ilvcfg)).toNat = n % ilvSize c.ilvcfg := by
  simp only [interleaverIllegal, not_or, Nat.not_lt, Nat.not_le] at hlegal
  obtain ⟨-, -, hmax, hiwr, -⟩ := hlegal
  exact Nat.mod_eq_of_lt ((Nat.mod_lt n (Nat.zero_lt_of_lt hiwr)).trans_le hmax)

/-- The cells of the interleaver after a command that replaces the current context. -/
theorem onlyCur.istoreBit {s t : State} {c : Context} (h : onlyCur s t c) (k : Nat) :
    t.istoreBit k =
      (c.istore.get? k).getD ((Config.powerOn s.resets .istore s.ctx.toNat k).getLsbD 0) := by
  obtain ⟨hframe, -, hcur⟩ := h
  have hctx : t.ctx = s.ctx := by rw [hframe]
  have hresets : t.resets = s.resets := by rw [hframe]
  rw [State.istoreBit, hcur, hctx, hresets]

theorem ilvwBody_eq_config {s : State} (hill : interleaverIllegal s.cur) (ra rb : XReg) :
    ilvwBody ra rb s = .error .config :=
  if_pos ((badInterleaver_iff _).2 hill)

theorem ilvwBody_eq_ok {s : State} {ra rb : XReg} (hlegal : ¬ interleaverIllegal s.cur)
    (hin : s.xval ra + s.xval rb ≤ s.params.bmBits) :
    ilvwBody ra rb s = .ok (s.setCur { s.cur with
      istore := ringWrite (ilvSize s.cur.ilvcfg) s.cur.iwr.toNat (s.bits (s.xval ra) (s.xval rb)) s.cur.istore
      iwr := BitVec.ofNat 11 ((s.cur.iwr.toNat + s.xval rb) % ilvSize s.cur.ilvcfg) }) :=
  (if_neg (mt (badInterleaver_iff _).1 hlegal)).trans (if_pos ((inRange_iff _ _ _).2 hin))

/-- Settles O36: the configuration is checked first, then the range; the run is written around the ring of
`N` cells. -/
theorem ilvwResult : Obligations.IlvwResult := by
  intro s ra rb h src n size
  refine ⟨fun hill => exec_error h rfl (ilvwBody_eq_config hill ra rb), fun hlegal hout =>
    exec_error h rfl ((ilvwBody_eq_bmRange_iff s hlegal ra rb).2 hout), fun hlegal hin => ?_⟩
  obtain ⟨t, he, hframe⟩ := exec_ok_setCur (i := .ilvw ra rb) h rfl (ilvwBody_eq_ok hlegal hin)
  obtain ⟨hwritten, hkept⟩ := get?_ringWrite size (s.bits src n) s.cur.iwr.toNat s.cur.istore
  simp only [State.bits_length] at hwritten hkept
  obtain ⟨-, -, hcur⟩ := id hframe
  refine ⟨t, he, ?_, ?_, fun i hi hlast => ?_, fun c hc => ?_⟩
  · rw [hcur]; exact hframe
  · rw [hcur]; exact toNat_ofNat_mod_ilvSize hlegal _
  · rw [hframe.istoreBit, hwritten i hi hlast]
    simp [State.bits]
  · rw [hframe.istoreBit, hkept c hc]
    rfl

theorem ilvrBody_eq_config {s : State} (hill : interleaverIllegal s.cur) (rd rb : XReg) :
    ilvrBody rd rb s = .error .config :=
  if_pos ((badInterleaver_iff _).2 hill)

theorem ilvrBody_eq_ok {s : State} {rd rb : XReg} (hlegal : ¬ interleaverIllegal s.cur)
    (hin : s.xval rd + s.xval rb ≤ s.params.bmBits) :
    ilvrBody rd rb s = .ok ((s.setCur { s.cur with
      ird := BitVec.ofNat 11 ((s.cur.ird.toNat + s.xval rb) % ilvSize s.cur.ilvcfg) }).writeBits
        (s.xval rd) (s.interleaved (s.xval rb))) :=
  (if_neg (mt (badInterleaver_iff _).1 hlegal)).trans (if_pos ((inRange_iff _ _ _).2 hin))

/-- Settles O37: the configuration is checked first, then the range; the run written is the cells in the order
of the permutation. -/
theorem ilvrResult : Obligations.IlvrResult := by
  intro s rd rb h dst n rows cols perm
  refine ⟨fun hill => exec_error h rfl (ilvrBody_eq_config hill rd rb), fun hlegal hout =>
    exec_error h rfl ((ilvrBody_eq_bmRange_iff s hlegal rd rb).2 hout), fun hlegal hin => ?_⟩
  obtain ⟨t, he, hframe, hbits⟩ :=
    exec_ok_setCur_writeBits (i := .ilvr rd rb) h rfl (ilvrBody_eq_ok hlegal hin)
  rw [State.interleaved_length] at hframe
  obtain ⟨-, -, -, hcur⟩ := id hframe
  refine ⟨t, he, ?_, ?_, fun i hi => hbits i _ ?_⟩
  · rw [hcur]; exact hframe
  · rw [hcur]; exact toNat_ofNat_mod_ilvSize hlegal _
  · rw [State.interleaved, List.getElem?_map, List.getElem?_range hi]
    rfl

/-! ### A whole block -/

/-- A whole turn around the block brings a cursor back (R239). -/
theorem eq_of_whole_turn {v v' : BitVec 11} {n : Nat} (hv : v = 0) (hturn : v'.toNat = (v.toNat + n) % n) :
    v' = v := by
  subst hv
  refine BitVec.eq_of_toNat_eq (hturn.trans ?_)
  rw [Nat.add_mod_right]
  exact Nat.zero_mod n

/-- A cell number counted from a cursor at 0. -/
theorem cursor_zero_add_mod {v : BitVec 11} {i n : Nat} (hv : v = 0) (hi : i < n) : (v.toNat + i) % n = i := by
  subst hv
  rw [toNat_eq_zero_iff.2 rfl, Nat.zero_add, Nat.mod_eq_of_lt hi]

/-- `ILVW` of a whole block from cursor 0 fills cell `p` with bit `p`, and nothing else of the context
changes. -/
theorem exec_ilvw_block {s : State} {ra rb : XReg} (h : s.cur.fsr = 0) (hlegal : ¬ interleaverIllegal s.cur)
    (hiwr : s.cur.iwr = 0) (hlen : s.xval rb = ilvSize s.cur.ilvcfg)
    (hin : s.xval ra + s.xval rb ≤ s.params.bmBits) :
    ∃ t, exec (.ilvw ra rb) s = .next t ∧ onlyCur s t { s.cur with istore := t.cur.istore } ∧
      ∀ p, p < ilvSize s.cur.ilvcfg → t.istoreBit p = s.bit (s.xval ra + p) := by
  obtain ⟨-, -, hwrite⟩ := ilvwResult s ra rb h
  obtain ⟨t, he, hframe, hcursor, hcells, -⟩ := hwrite hlegal hin
  rw [hlen] at hcursor hcells
  rw [eq_of_whole_turn hiwr hcursor] at hframe
  refine ⟨t, he, hframe, fun p hp => ?_⟩
  have hcell := hcells p hp (Nat.le_add_left _ _)
  rwa [cursor_zero_add_mod hiwr hp] at hcell

/-- `ILVR` of a whole block from cursor 0 reads the cells in the order of the permutation, and leaves the
context as it was. -/
theorem exec_ilvr_block {s : State} {rd rb : XReg} (h : s.cur.fsr = 0) (hlegal : ¬ interleaverIllegal s.cur)
    (hird : s.cur.ird = 0) (hlen : s.xval rb = ilvSize s.cur.ilvcfg)
    (hin : s.xval rd + s.xval rb ≤ s.params.bmBits) :
    ∃ t, exec (.ilvr rd rb) s = .next t ∧ t.cur = s.cur ∧
      ∀ o, o < ilvSize s.cur.ilvcfg → t.bit (s.xval rd + o) =
        s.istoreBit (ilvPerm (ilvRows s.cur.ilvcfg) (ilvCols s.cur.ilvcfg) (ilvDir s.cur.ilvcfg) o) := by
  obtain ⟨-, -, hread⟩ := ilvrResult s rd rb h
  obtain ⟨t, he, ⟨-, -, -, hcur⟩, hcursor, hbits⟩ := hread hlegal hin
  rw [hlen] at hcursor hbits
  rw [eq_of_whole_turn hird hcursor] at hcur
  refine ⟨t, he, hcur, fun o ho => (hbits o ho).trans ?_⟩
  exact congrArg (fun p => s.istoreBit (ilvPerm _ _ _ p)) (cursor_zero_add_mod hird ho)

/-- Settles O55: the block written fills every cell once, so the read meets input bit `π(o)` in the cell of
output bit `o`. -/
theorem interleaverBlock : Obligations.InterleaverBlock := by
  intro s ra rb rd h hlegal hiwr hird hlen hsrc hdst
  obtain ⟨t, ht, ⟨hframe, -, hcur⟩, hcells⟩ := exec_ilvw_block h hlegal hiwr hlen hsrc
  have hx : t.xval = s.xval := by rw [hframe]; rfl
  have hparams : t.params = s.params := by rw [hframe]
  have hcfg : t.cur.ilvcfg = s.cur.ilvcfg := by rw [hcur]
  obtain ⟨u, hu, hcurU, hbits⟩ := exec_ilvr_block (s := t) (rd := rd) (rb := rb)
    (by rw [hcur]; exact h) (by rw [hcur]; exact hlegal) (by rw [hcur]; exact hird)
    (by rw [hx, hcfg]; exact hlen) (by rw [hx, hparams]; exact hdst)
  rw [hx, hcfg] at hbits
  refine ⟨t, u, ht, hu, ?_, ?_, fun o ho => (hbits o ho).trans (hcells _ (ilvPerm_lt _ ho))⟩
  · rw [hcurU, hcur]; exact hiwr
  · rw [hcurU, hcur]; exact hird

end Sys2Proof.Machine

/-! The modulator (44_modulation.md): its time base and indices, its checks in the terms of claims, and the sums
of its samples. -/

namespace Sys2Proof.Machine

/-! ### The time base -/

theorem getLsbD_zero_iff (v : BitVec 1) : v.getLsbD 0 = true ↔ v = 1 := by
  revert v
  decide

@[simp] theorem modJob_ctx (s : State) (t0 : Int) : (s.modJob t0).ctx = s.cur := rfl

@[simp] theorem modJob_entry (s : State) (t0 : Int) :
    (s.modJob t0).entry = s.catalog s.cur.sigt.toNat := rfl

/-- `T0` counts only under `ABS` (R260). -/
theorem tnum_modJob (s : State) (t0 : Int) (j : Nat) :
    (s.modJob t0).base.tnum j = (if s.cur.mflags = 1 then t0 else 0) *
      (s.catalog s.cur.sigt.toNat).modRate + j * (s.tickHz.toNat : Int) := by
  have horigin : (if s.cur.mflags.getLsbD 0 = true then t0 else 0) = if s.cur.mflags = 1 then t0 else 0 :=
    if_congr (getLsbD_zero_iff _) rfl rfl
  rw [← horigin]
  rfl

/-- The code-table entries elapsed (R261). -/
theorem entries_modJob (s : State) (t0 : Int) (chipRate spc j : Nat) :
    (s.modJob t0).base.entries chipRate spc j =
      Int.fdiv (((if s.cur.mflags = 1 then t0 else 0) * (s.catalog s.cur.sigt.toNat).modRate +
          j * (s.tickHz.toNat : Int)) * chipRate * spc)
        ((s.catalog s.cur.sigt.toNat).modRate * (s.tickHz.toNat : Int)) := by
  rw [TimeBase.entries, tnum_modJob]
  rfl

/-- `NK` counts only under `ABS` (R261). -/
theorem bitOffset_modJob (s : State) (t0 : Int) (st : NavStream) (j : Nat) :
    bitOffset (s.modJob t0).base (s.modJob t0).abs st j = navOffset s t0 st j := by
  have hindex : (if (s.modJob t0).abs = true then (st.nk.toNat : Int) else 0) =
      if s.cur.mflags = 1 then (st.nk.toNat : Int) else 0 :=
    if_congr (getLsbD_zero_iff _) rfl rfl
  rw [bitOffset, tnum_modJob, hindex]
  rfl

/-- Settles O43: the model reads `ABS` as a bit and the statement as a number; the divisions are the same. -/
theorem modTimeIndices : Obligations.ModTimeIndices := fun s t0 j _ st =>
  ⟨entries_modJob s t0 _ _ j, rfl, rfl, bitOffset_modJob s t0 st j⟩

/-! ### MODOFS -/

/-- The checks of `MODOFS` in the terms of claims (R266, R293, R297), and the flag of its value. -/
theorem modofsBody_eq (s : State) (rd : XReg) :
    let v := (s.catalog s.cur.sigt.toNat).modRate * s.maxtt.toNat / s.tickHz.toNat
    modofsBody rd s = if signalUnsupported s then .error .unsupportedSignal
      else if tickIllegal s then .error .config
      else .ok ((s.setStatus (flagged (2 ^ 64 ≤ v) .iovf s.status)).setX rd v) := by
  intro v
  have hvalue : sampleOffset (s.catalog s.cur.sigt.toNat).modRate s.maxtt.toNat s.tickHz.toNat = (v : Int) := by
    rw [sampleOffset, fdiv, Int.fdiv_eq_ediv_of_nonneg _ (Int.natCast_nonneg _), ← Nat.cast_mul,
      ← Int.natCast_ediv]
  have hfits : fitsU 64 (v : Int) = true ↔ ¬ 2 ^ 64 ≤ v := by
    rw [fitsU_iff, and_iff_right (Int.natCast_nonneg v), Nat.not_le]
    exact_mod_cast Iff.rfl
  rw [← raiseIf_not_eq_flagged .iovf _ _ _ hfits, modofsBody, hvalue]
  exact if_congr (noSignal_iff s) rfl (if_congr (badTick_iff s) rfl rfl)

/-- Settles O45: the register takes the quotient rounded down, after the two checks. -/
theorem modofsResult : Obligations.ModofsResult := by
  intro s rd h
  refine ⟨fun hsig => exec_error h rfl ((modofsBody_eq s rd).trans (if_pos hsig)), fun hsig htick =>
    exec_error h rfl ((modofsBody_eq s rd).trans ((if_neg hsig).trans (if_pos htick))),
    fun hsig htick => ?_⟩
  obtain ⟨t, he, hframe, hreg, hst⟩ := exec_ok_setX (i := .modofs rd) h rfl
    ((modofsBody_eq s rd).trans ((if_neg hsig).trans (if_neg htick)))
  have hhz : 0 < s.tickHz.toNat := Nat.pos_of_ne_zero fun hzero => htick (.inl hzero)
  refine ⟨t, _, he, hframe, ?_, Nat.div_mul_le_self _ _, ?_, hst⟩
  · rw [hreg, BitVec.ofInt_natCast]
  · rw [Nat.mul_comm _ s.tickHz.toNat]
    exact Nat.lt_mul_div_succ _ hhz

/-! ### The stream a component selects -/

/-- A component selects stream A, stream B or none (R53). -/
theorem streamOf_eq (c : Context) (ds : BitVec 2) :
    c.streamOf ds = if ds = 1 then some c.strA else if ds = 2 then some c.strB else none := by
  revert ds
  exact fun | 0 | 1 | 2 | 3 => rfl

/-- A fact about the selected stream, in the terms of claims. -/
theorem exists_streamOf_iff {c : Context} {ds : BitVec 2} {p : NavStream → Prop} :
    (∃ st, c.streamOf ds = some st ∧ p st) ↔ (ds = 1 ∧ p c.strA) ∨ (ds = 2 ∧ p c.strB) := by
  rw [streamOf_eq]
  by_cases hA : ds = 1
  · simp [hA]
  · by_cases hB : ds = 2
    · simp [hB]
    · simp only [hA, hB, if_false, reduceCtorEq, false_and, exists_false, or_self]

/-! ### The checks of MOD -/

theorem schemeAllows_iff (scheme ncomp spc : Nat) :
    schemeAllows scheme ncomp spc = true ↔ schemeLimits scheme ncomp spc := by
  match scheme with
  | 0 | 1 | 2 => simp [schemeAllows, schemeLimits]
  | scheme + 3 => simp [schemeAllows, schemeLimits]

/-- Check 2 of R265 for one component, by the stream it selects. -/
theorem badComponent_iff (c : Context) (k : Component) :
    c.badComponent k = true ↔ k.cl = 0 ∨ k.ds = 3 ∨ (k.ds = 1 ∧ c.strA.brm = 0) ∨
      (k.ds = 2 ∧ c.strB.brm = 0) := by
  have hds : k.ds.toNat = 3 ↔ k.ds = 3 := by rw [← BitVec.toNat_inj]; rfl
  rw [← exists_streamOf_iff (p := fun st => st.brm = 0)]
  cases hst : c.streamOf k.ds with
  | none => simp [Context.badComponent, hst, toNat_eq_zero_iff, hds]
  | some st => simp [Context.badComponent, hst, toNat_eq_zero_iff, hds, or_assoc]

theorem modConfigBad_iff (s : State) : s.modConfigBad = true ↔ modConfigIllegal s := by
  simp only [State.modConfigBad, modConfigIllegal, Bool.or_eq_true, decide_eq_true_eq, badTick_iff,
    Bool.not_eq_true', ← Bool.not_eq_true, schemeAllows_iff, toNat_eq_zero_iff, List.any_eq_true,
    badComponent_iff, or_assoc]

/-- Check 3 of R265 for one component, by the stream it selects. -/
theorem bmRangesOk_iff (c : Context) (size : Nat) (k : Component) :
    bmRangesOk c size k = true ↔ ¬ (size < k.sb.toNat + k.sl.toNat ∨
      (k.ds = 1 ∧ size < c.strA.nb.toNat + c.strA.nc.toNat) ∨
      (k.ds = 2 ∧ size < c.strB.nb.toNat + c.strB.nc.toNat)) := by
  rw [← exists_streamOf_iff (p := fun st => size < st.nb.toNat + st.nc.toNat)]
  cases hst : c.streamOf k.ds with
  | none => simp [bmRangesOk, hst]
  | some st => simp [bmRangesOk, hst]

theorem cmRangeOk_iff (scheme size : Nat) (k : Component) :
    cmRangeOk scheme size k = true ↔
      ¬ size < k.cb.toNat + (if scheme = 2 then 2 else 1) * k.cl.toNat := by
  simp [cmRangeOk, wordsPerEntry, complexTables]

theorem inWindow_iff (st : NavStream) (off : Int) :
    inWindow st off = true ↔ 0 ≤ off ∧ off < st.nc.toNat := by
  simp [inWindow]

/-- Check 6 of R265 for one component and one sample, by the stream it selects. -/
theorem offsetOk_iff (s : State) (t0 : Int) (k : Component) (j : Nat) :
    offsetOk (s.modJob t0) k j = true ↔ ¬ ((k.ds = 1 ∧ ¬ (0 ≤ navOffset s t0 s.cur.strA j ∧
        navOffset s t0 s.cur.strA j < s.cur.strA.nc.toNat)) ∨
      (k.ds = 2 ∧ ¬ (0 ≤ navOffset s t0 s.cur.strB j ∧
        navOffset s t0 s.cur.strB j < s.cur.strB.nc.toNat))) := by
  rw [← exists_streamOf_iff
    (p := fun st => ¬ (0 ≤ navOffset s t0 st j ∧ navOffset s t0 st j < st.nc.toNat))]
  cases hst : s.cur.streamOf k.ds with
  | none => simp [offsetOk, hst]
  | some st => simp [offsetOk, hst, inWindow_iff, bitOffset_modJob]

theorem all_iff_not_exists {α : Type} {l : List α} {f : α → Bool} {p : α → Prop}
    (h : ∀ k, f k = true ↔ ¬ p k) : l.all f = true ↔ ¬ ∃ k ∈ l, p k := by
  simp [h]

/-- A check that fails, in the terms of its cause. -/
theorem check_fails_iff {b : Bool} {p : Prop} (h : b = true ↔ ¬ p) : (!b) = true ↔ p := by
  rw [Bool.not_eq_true', ← Bool.not_eq_true, h, not_not]

/-- The checks of `MOD` in the terms of claims, in the order of R265. -/
theorem modBody_eq (s : State) (rd ra rb : XReg) :
    modBody rd ra rb s = if signalUnsupported s then .error .unsupportedSignal
      else if modConfigIllegal s then .error .config
      else if modBmOutside s then .error .bmRange
      else if modCmOutside s then .error .cmRange
      else if s.params.smSamples < s.xval rd + s.xval rb then .error .smRange
      else if modBitOutside s (s.xint ra) (s.xval rb) then .error .modRange
      else .ok (s.writeSamples (s.xval rd)
        ((List.range (s.xval rb)).map (modSample s (s.modJob (s.xint ra))))) := by
  have hbit : ((List.range (s.xval rb)).all fun j => s.cur.components.all fun k =>
      offsetOk (s.modJob (s.xint ra)) k j) = true ↔ ¬ modBitOutside s (s.xint ra) (s.xval rb) := by
    rw [all_iff_not_exists fun j => all_iff_not_exists fun k => offsetOk_iff s (s.xint ra) k j]
    simp only [List.mem_range]
  exact if_congr (noSignal_iff s) rfl <| if_congr (modConfigBad_iff s) rfl <|
    if_congr (check_fails_iff (all_iff_not_exists (bmRangesOk_iff _ _))) rfl <|
    if_congr (check_fails_iff (all_iff_not_exists (cmRangeOk_iff _ _))) rfl <|
    if_congr (check_fails_iff ((inRange_iff _ _ _).trans Nat.not_lt.symm)) rfl <|
    if_congr (check_fails_iff hbit) rfl rfl

/-- With none of the causes of R265 `MOD` has its effect. -/
theorem modBody_eq_ok {s : State} {rd ra rb : XReg} (hsig : ¬ signalUnsupported s)
    (hcfg : ¬ modConfigIllegal s) (hbm : ¬ modBmOutside s) (hcm : ¬ modCmOutside s)
    (hsm : s.xval rd + s.xval rb ≤ s.params.smSamples)
    (hbit : ¬ modBitOutside s (s.xint ra) (s.xval rb)) :
    modBody rd ra rb s = .ok (s.writeSamples (s.xval rd)
      ((List.range (s.xval rb)).map (modSample s (s.modJob (s.xint ra))))) := by
  rw [modBody_eq, if_neg hsig, if_neg hcfg, if_neg hbm, if_neg hcm, if_neg (Nat.not_lt.2 hsm), if_neg hbit]

/-- A command whose checks pass completes with status 0. -/
theorem completion_of_ok {i : Instr} {s t : State} {body : State → Except Cause State} (h : s.cur.fsr = 0)
    (he : exec i s = .next (s.runCommand (encode i) body)) (hb : body s = .ok t) :
    completion i s = some 0 := by
  rw [completion, exec_ok h he hb]

/-- Settles O20: each clause walks the checks down to the first one that holds. -/
theorem modChecksInOrder : Obligations.ModChecksInOrder := by
  intro s rd ra rb h status
  have hcode : ∀ c : Cause, status = some c.code ↔ modBody rd ra rb s = .error c := fun c =>
    completion_eq_code_iff (i := .mod rd ra rb) h rfl
  rw [modBody_eq] at hcode
  refine ⟨fun hsig => (hcode .unsupportedSignal).2 ?_, fun hsig hcfg => (hcode .config).2 ?_,
    fun hsig hcfg hbm => (hcode .bmRange).2 ?_, fun hsig hcfg hbm hcm => (hcode .cmRange).2 ?_,
    fun hsig hcfg hbm hcm hsm => (hcode .smRange).2 ?_, fun hsig hcfg hbm hcm hsm =>
      ⟨fun hbit => (hcode .modRange).2 ?_,
        fun hbit => completion_of_ok h rfl (modBody_eq_ok hsig hcfg hbm hcm hsm hbit)⟩⟩
  · rw [if_pos hsig]
  · rw [if_neg hsig, if_pos hcfg]
  · rw [if_neg hsig, if_neg hcfg, if_pos hbm]
  · rw [if_neg hsig, if_neg hcfg, if_neg hbm, if_pos hcm]
  · rw [if_neg hsig, if_neg hcfg, if_neg hbm, if_neg hcm, if_pos hsm]
  · rw [if_neg hsig, if_neg hcfg, if_neg hbm, if_neg hcm, if_neg (Nat.not_lt.2 hsm), if_pos hbit]

/-! ### The terms of a sample -/

/-- The factor of a bit as R262 writes it. -/
theorem sgn_eq (b : Bool) : sgn b = 1 - 2 * (b.toNat : Int) := by cases b <;> rfl

theorem abs_sgn (b : Bool) : |sgn b| = 1 := by cases b <;> rfl

theorem dataFactor_modJob (s : State) (t0 : Int) (k : Component) (j : Nat) :
    dataFactor s (s.modJob t0) k j =
      if k.ds = 1 then sgn (s.bit (s.cur.strA.nb.toNat + (navOffset s t0 s.cur.strA j).toNat))
      else if k.ds = 2 then sgn (s.bit (s.cur.strB.nb.toNat + (navOffset s t0 s.cur.strB j).toNat))
      else 1 := by
  simp only [dataFactor, modJob_ctx, streamOf_eq, bitOffset_modJob]
  split_ifs <;> rfl

theorem chipFactor_eq (s : State) (k : Component) (e : Int) :
    chipFactor s k e = if k.sl = 0 then 1 else sgn (s.bit (k.sb.toNat + chipIndex e k)) :=
  if_congr toNat_eq_zero_iff rfl rfl

theorem abs_dataFactor (s : State) (job : ModJob) (k : Component) (j : Nat) :
    |dataFactor s job k j| = 1 := by
  cases hst : job.ctx.streamOf k.ds with
  | none => simp [dataFactor, hst]
  | some st => simp [dataFactor, hst, abs_sgn]

theorem abs_chipFactor (s : State) (k : Component) (e : Int) : |chipFactor s k e| = 1 := by
  rw [chipFactor]
  split
  · rfl
  · exact abs_sgn _

theorem abs_codeWord_le (s : State) (a : Nat) : |(s.codeWord a).toInt| ≤ 2 ^ 15 := by
  have hlow := BitVec.le_toInt (s.codeWord a)
  have hhigh := BitVec.toInt_lt (x := s.codeWord a)
  exact abs_le.2 ⟨by omega, by omega⟩

/-- The I and Q parts of a term: only a complex table has a Q part (R263, R264). -/
theorem modTerm_eq (s : State) (job : ModJob) (k : Component) (j : Nat) :
    let e := job.base.entries job.entry.chipRate job.ctx.spc.toNat j
    let f := dataFactor s job k j * chipFactor s k e
    let table := fun a => (s.codeWord a).toInt
    modTerm s job k j =
      (f * if job.entry.scheme = 2 then table (k.cb.toNat + 2 * tableIndex e k)
          else table (k.cb.toNat + tableIndex e k),
        if job.entry.scheme = 2 then f * table (k.cb.toNat + 2 * tableIndex e k + 1) else 0) := by
  by_cases hscheme : job.entry.scheme = 2 <;> simp [modTerm, complexTables, hscheme]

/-- A term is a table entry up to its sign (R263). -/
theorem abs_modTerm_le (s : State) (job : ModJob) (k : Component) (j : Nat) :
    |(modTerm s job k j).1| ≤ 2 ^ 15 ∧ |(modTerm s job k j).2| ≤ 2 ^ 15 := by
  have hentry : ∀ e a, |dataFactor s job k j * chipFactor s k e * (s.codeWord a).toInt| ≤ 2 ^ 15 := by
    intro e a
    rw [abs_mul, abs_mul, abs_dataFactor, abs_chipFactor, one_mul, one_mul]
    exact abs_codeWord_le s a
  rw [modTerm]
  split
  · exact ⟨hentry _ _, hentry _ _⟩
  · exact ⟨hentry _ _, by norm_num⟩

/-! ### The sums -/

theorem length_components_le (c : Context) : c.components.length ≤ 4 := by
  rw [Context.components, List.length_take]
  exact (min_le_right _ _).trans (by simp)

/-- A sum of at most four terms of 16 bits stays inside 32 bits (R263). -/
theorem toInt_sum_components (c : Context) {f : Component → Int} (hterm : ∀ k, |f k| ≤ 2 ^ 15) :
    (BitVec.ofInt 32 (c.components.map f).sum).toInt = (c.components.map f).sum := by
  have hbounds : ∀ t ∈ c.components.map f, -2 ^ 15 ≤ t ∧ t ≤ 2 ^ 15 := by
    intro t ht
    obtain ⟨k, -, rfl⟩ := List.mem_map.1 ht
    exact abs_le.1 (hterm k)
  have hlen := length_components_le c
  have hlow := List.card_nsmul_le_sum _ _ fun t ht => (hbounds t ht).1
  have hhigh := List.sum_le_card_nsmul _ _ fun t ht => (hbounds t ht).2
  rw [List.length_map, nsmul_eq_mul] at hlow hhigh
  rw [BitVec.toInt_ofInt]
  exact Int.bmod_eq_of_le (by omega) (by omega)

/-- No sum of the components' terms leaves 32 bits (R263). -/
theorem toInt_modSample (s : State) (t0 : Int) (j : Nat) :
    (modSample s (s.modJob t0) j).i.toInt =
        (s.cur.components.map fun k => (modTerm s (s.modJob t0) k j).1).sum ∧
      (modSample s (s.modJob t0) j).q.toInt =
        (s.cur.components.map fun k => (modTerm s (s.modJob t0) k j).2).sum := by
  simp only [modSample, modJob_ctx, List.map_map, Function.comp_def]
  exact ⟨toInt_sum_components s.cur fun k => (abs_modTerm_le s _ k j).1,
    toInt_sum_components s.cur fun k => (abs_modTerm_le s _ k j).2⟩

/-- A command that writes a run of samples of SM. -/
theorem exec_ok_writeSamples {i : Instr} {s : State} {body : State → Except Cause State} {a : Nat}
    {vs : List Sample} (h : s.cur.fsr = 0) (he : exec i s = .next (s.runCommand (encode i) body))
    (hb : body s = .ok (s.writeSamples a vs)) :
    ∃ t, exec i s = .next t ∧ t = { s with sm := t.sm, lastst := 0 } ∧
      (∀ b, b < a ∨ a + vs.length ≤ b → t.sample b = s.sample b) ∧
      ∀ j (hj : j < vs.length), t.sample (a + j) = vs[j] := by
  refine ⟨_, exec_ok h he hb, rfl, fun b hb => ?_, fun j hj => ?_⟩
  · exact (State.sample_writeSamples s a vs b).trans (dif_neg (by omega))
  · refine (State.sample_writeSamples s a vs (a + j)).trans ((dif_pos (by omega)).trans ?_)
    simp

/-- Settles O44: the samples written are those of `modSample`, whose sums are exact, and the terms summed are
those of R263. -/
theorem modResult : Obligations.ModResult := by
  intro s rd ra rb h hsig hcfg hbm hcm hsm hbit dst t0 sig hz sign table tnum e p navBit d c termI termQ
  obtain ⟨t, he, hframe, hkept, hsamples⟩ := exec_ok_writeSamples (i := .mod rd ra rb) h rfl
    (modBody_eq_ok hsig hcfg hbm hcm hsm hbit)
  simp only [List.length_map, List.length_range] at hkept hsamples
  have hdata : ∀ j k, dataFactor s (s.modJob t0) k j = d k j := fun j k => by
    simp only [dataFactor_modJob, sgn_eq]; rfl
  have hchip : ∀ j k, chipFactor s k (e j) = c k j := fun j k => by
    simp only [chipFactor_eq, sgn_eq]; rfl
  have hentries : ∀ j, (s.modJob t0).base.entries sig.chipRate s.cur.spc.toNat j = e j :=
    fun j => entries_modJob s t0 _ _ j
  have hterm : ∀ j k, modTerm s (s.modJob t0) k j = (termI j k, termQ j k) := fun j k => by
    rw [modTerm_eq, modJob_ctx, modJob_entry, hentries, hdata, hchip]
    rfl
  refine ⟨t, he, hframe, hkept, fun j hj => ?_⟩
  obtain ⟨hi, hq⟩ := toInt_modSample s t0 j
  simp only [hterm] at hi hq
  rw [hsamples j hj, List.getElem_map, List.getElem_range]
  exact ⟨hi, hq⟩

end Sys2Proof.Machine

/-! The system commands (45_system.md): `NOP`, and the entries of the catalog that `SELSIG` selects. -/

namespace Sys2Proof.Machine

/-- Settles O25: `NOP` is exempt from the refusal of R296 and has no effect of its own. -/
theorem nopResult : Obligations.NopResult := fun s =>
  calc exec .nop s = .next (s.runExempt id) := rfl
    _ = .next { s with lastst := 0 } := by rw [State.runExempt_eq, id_eq]

/-- The check of R264 on a catalog entry, in the terms of claims. -/
theorem CatalogEntry.unsupported_iff (e : CatalogEntry) :
    e.unsupported = true ↔ e.valid = false ∨ e.scheme = 3 := by
  simp [CatalogEntry.unsupported]

/-- The two checks of `SELSIG` raise one cause (R282). -/
theorem selsigBody_eq (s : State) (ra : XReg) :
    selsigBody ra s = if s.params.nsig ≤ s.xval ra ∨ (s.catalog (s.xval ra)).valid = false ∨
        (s.catalog (s.xval ra)).scheme = 3 then .error .unsupportedSignal
      else .ok (s.setCur { s.cur with sigt := BitVec.ofNat 16 (s.xval ra), sigv := 1 }) := by
  simp only [selsigBody, CatalogEntry.unsupported_iff, ite_or]

/-- Settles O27: with its checks passed `SELSIG` replaces the current context, else they name the cause. -/
theorem selsigResult : Obligations.SelsigResult := by
  intro s ra h
  refine ⟨fun hid hvalid hscheme => ?_, fun hbad => ?_⟩
  · have hgood : ¬ (s.params.nsig ≤ s.xval ra ∨ (s.catalog (s.xval ra)).valid = false ∨
        (s.catalog (s.xval ra)).scheme = 3) := by
      simp [hid, hvalid, hscheme]
    exact exec_ok_setCur (i := .selsig ra) h rfl ((selsigBody_eq s ra).trans (if_neg hgood))
  · exact exec_error (c := .unsupportedSignal) h rfl ((selsigBody_eq s ra).trans (if_pos hbad))

end Sys2Proof.Machine

/-! The causes and the taking of faults (60_exceptions.md R291 to R299): which causes the checks of a command can
name, how every command completes, and the rows of the table of `CONFIG` causes. -/

namespace Sys2Proof.Machine

/-! ### The causes a run of checks can name -/

/-- The checks and effect of a command, if they fail, name a cause of the list. -/
def RaisesOnly (cs : List Cause) (r : Except Cause State) : Prop := ∀ c, r = .error c → c ∈ cs

section
variable {p : Prop} [Decidable p] {cs : List Cause} {e : Cause} {r x : Except Cause State} {t : State}

theorem RaisesOnly.ok : RaisesOnly [] (.ok t) := nofun

theorem RaisesOnly.range : RaisesOnly [e] (if p then .ok t else .error e) := by
  intro c hc
  split at hc
  · cases hc
  · cases hc
    exact List.mem_cons_self

/-- A check before others names its cause before theirs. -/
theorem RaisesOnly.check (hr : RaisesOnly cs r) : RaisesOnly (e :: cs) (if p then .error e else r) := by
  intro c hc
  split at hc
  · cases hc
    exact List.mem_cons_self
  · exact List.mem_cons_of_mem e (hr c hc)

/-- A check whose cause no later check names is failed exactly when that cause is named. -/
theorem eq_error_iff_of_check (hx : x = if p then .error e else r) (hr : RaisesOnly cs r) (he : e ∉ cs) :
    x = .error e ↔ p := by
  subst hx
  by_cases hp : p
  · simp only [hp, if_true]
  · simpa only [hp, if_false, iff_false] using mt (hr e) he

end

/-! ### The two kinds of commands -/

/-- How the command `i` runs in `s`: exempt from the refusal of R296, or with its checks, which name the causes
its row of R291 lists. -/
inductive Runs (i : Instr) (s : State) : Prop
  | exempt (h : exempt i = true) (body : State → State) (he : exec i s = .next (s.runExempt body))
  | checked (h : exempt i = false) (body : State → Except Cause State)
      (he : exec i s = .next (s.runCommand (encode i) body)) (hraises : RaisesOnly (causes i) (body s))

theorem raisesOnly_packField (w v : Nat) (s : State) : RaisesOnly [.bmRange] (packField w v s) := .range

theorem raisesOnly_pwlqBody (rd ra : XReg) (up : Bool) (s : State) :
    RaisesOnly [.config] (pwlqBody rd ra up s) :=
  (pwlqBody_eq s rd ra up).symm ▸ .check .ok

theorem raisesOnly_selsigBody (ra : XReg) (s : State) :
    RaisesOnly [.unsupportedSignal] (selsigBody ra s) :=
  (selsigBody_eq s ra).symm ▸ .check .ok

/-- The column "raised by" of R291, command by command, in the order of each command's checks. -/
theorem exec_runs (i : Instr) (s : State) : Runs i s := by
  cases i with
  | nop => exact .exempt rfl _ rfl
  | ctxclr => exact .exempt rfl _ rfl
  | selsig ra => exact .checked rfl _ rfl (raisesOnly_selsigBody ra s)
  | fecrst => exact .checked rfl _ rfl .ok
  | pack ra signed wm1 => exact .checked rfl _ rfl (raisesOnly_packField _ _ _)
  | packi wm1 imm => exact .checked rfl _ rfl (raisesOnly_packField _ _ s)
  | packsp w => exact .checked rfl _ rfl (.check .range)
  | qscale rd qa k sc => exact .checked rfl _ rfl .ok
  | pwlq rd ra up => exact .checked rfl _ rfl (raisesOnly_pwlqBody rd ra up s)
  | crc24 ra rb cont => exact .checked rfl _ rfl .range
  | crcput => exact .checked rfl _ rfl (raisesOnly_packField _ _ s)
  | conv rd ra rb keep => exact .checked rfl _ rfl .range
  | ilvw ra rb => exact .checked rfl _ rfl (.check .range)
  | ilvr rd rb => exact .checked rfl _ rfl (.check .range)
  | t2b rd ra => exact .checked rfl _ rfl (.check .ok)
  | seek ra => exact .checked rfl _ rfl (.check .ok)
  | adv => exact .checked rfl _ rfl (.check .ok)
  | wtype rd => exact .checked rfl _ rfl .ok
  | almidx rd => exact .checked rfl _ rfl .ok
  | bcopy rd ra rb => exact .checked rfl _ rfl .range
  | tile rd ra rb rc re => exact .checked rfl _ rfl (.check .range)
  | mod rd ra rb => exact .checked rfl _ rfl (.check (.check (.check (.check (.check (.check .ok))))))
  | modofs rd => exact .checked rfl _ rfl (.check (.check .ok))
  | kepler qd qa qb => exact .exempt rfl _ rfl
  | prop ra rb => exact .exempt rfl _ rfl
  | reldly qd => exact .exempt rfl _ rfl

/-! ### Completion -/

section
variable {i : Instr} {s t : State}

theorem completion_of_exec (he : exec i s = .next t) : completion i s = some t.lastst := by
  rw [completion, he]

theorem completion_of_exempt (hi : exempt i = true) : completion i s = some 0 := by
  cases exec_runs i s with
  | exempt _ body he => exact completion_of_exec he
  | checked hi' => exact absurd (hi.symm.trans hi') (by decide)

/-- R296: a faulted context refuses a command that is not exempt. -/
theorem exec_of_faulted (h : s.cur.fsr ≠ 0) (hi : exempt i = false) :
    exec i s = .next { s with lastst := 8 } := by
  cases exec_runs i s with
  | exempt hi' => exact absurd (hi.symm.trans hi') (by decide)
  | checked _ body he => rw [he, State.runCommand_faulted h]

/-- How a command ends: completed, refused, or with a fault its row lists, recorded with its own word. -/
theorem exec_cases (he : exec i s = .next t) :
    t.lastst = 0 ∨ (s.cur.fsr ≠ 0 ∧ exempt i = false ∧ t.lastst = 8) ∨
      ∃ c ∈ causes i, t = s.enterFault c (encode i) := by
  cases exec_runs i s with
  | exempt _ body hrun =>
    obtain rfl := Host.Outcome.next.inj (hrun.symm.trans he)
    exact .inl rfl
  | checked hi body hrun hraises =>
    obtain rfl := Host.Outcome.next.inj (hrun.symm.trans he)
    rcases s.runCommand_cases (encode i) body with ⟨h, hr⟩ | ⟨_, c, hc, hr⟩ | ⟨_, u, _, hr⟩
    · exact .inr (.inl ⟨h, hi, by rw [hr]⟩)
    · exact .inr (.inr ⟨c, hraises c hc, hr⟩)
    · exact .inl (by rw [hr])

theorem lastst_mem_statuses (he : exec i s = .next t) : t.lastst ∈ statuses i := by
  rcases exec_cases he with h | ⟨_, hi, h⟩ | ⟨c, hc, rfl⟩
  · simp [statuses, h]
  · simp [statuses, h, hi, ctxFaultedCode]
  · have hcode : c.code ∈ (causes i).map Cause.code := List.mem_map_of_mem hc
    rw [State.enterFault_lastst]
    exact List.mem_append_left _ (List.mem_cons_of_mem 0 hcode)

theorem completion_ne_faulted (h : s.cur.fsr = 0) : completion i s ≠ some 8 := by
  obtain ⟨t, he, _⟩ := exec_edits i s
  rw [completion_of_exec he, Ne, Option.some.injEq]
  rcases exec_cases he with h0 | ⟨hne, _, _⟩ | ⟨c, _, rfl⟩
  · rw [h0]; decide
  · exact absurd h hne
  · exact c.code_ne.2

end

/-- No edit reaches the parameters or the count of resets. -/
theorem Edits.params_resets {s t : State} (e : Edits s t) :
    t.params = s.params ∧ t.resets = s.resets := by
  induction e with
  | refl => exact ⟨rfl, rfl⟩
  | tail _ e ih =>
    obtain ⟨hparams, hresets⟩ := ih
    cases e <;> exact ⟨hparams, hresets⟩

/-- Settles O15: a command ends in one of three ways, and is made of edits, which leave the host's side. -/
theorem everyCommandCompletes : Obligations.EveryCommandCompletes := by
  intro i s
  obtain ⟨t, he, hedits⟩ := exec_edits i s
  obtain ⟨hpending, hresponses⟩ := hedits.hostSide
  obtain ⟨hparams, hresets⟩ := hedits.params_resets
  exact ⟨t, he, lastst_mem_statuses he, hpending, hresponses, hparams, hresets⟩

/-- Settles O17: the exempt commands run without the refusal, every other command behind it. -/
theorem faultedContextRefuses : Obligations.FaultedContextRefuses :=
  fun _ _ => ⟨exec_of_faulted, completion_of_exempt, completion_ne_faulted⟩

/-! ### Faults of a presented word -/

/-- A word that completes with neither 0 nor 8 is a fault taken with that word, legal or not: the word of a legal
command is its encoding. -/
theorem present_eq_fault {w : Word} {s t : State} (hp : present w s = .next t) (h0 : t.lastst ≠ 0)
    (h8 : t.lastst ≠ 8) : ∃ c : Cause, t = (s.enterFault c w).answer (.status c.code) := by
  cases hd : decode w with
  | error e =>
    have hillegal : ∀ i, decode w ≠ .ok i := fun i hi => by rw [hd] at hi; cases hi
    exact ⟨.illegalCommand,
      Host.Outcome.next.inj (hp.symm.trans (present_of_not_decode hillegal s))⟩
  | ok i =>
    obtain ⟨u, he, _⟩ := exec_edits i s
    obtain rfl := Host.Outcome.next.inj (hp.symm.trans (present_of_decode hd he))
    obtain ⟨_, hw⟩ := encodeDecodeAgree w i hd
    rcases exec_cases he with hz | ⟨_, _, hf⟩ | ⟨c, _, rfl⟩
    · exact absurd hz h0
    · exact absurd hf h8
    · exact ⟨c, by rw [hw, State.enterFault_lastst]⟩

/-- Settles O16: a status other than 0 and 8 comes from the taking of a fault, whose code is 1 to 7, and then from
its answer to the host. -/
theorem faultsArePrecise : Obligations.FaultsArePrecise := by
  intro w s t hp h0 h8
  obtain ⟨c, rfl⟩ := present_eq_fault hp h0 h8
  obtain ⟨_, hresponses⟩ := (edits_enterFault s c w).hostSide
  have hrest : { (s.enterFault c w).answer (.status c.code) with responses := s.responses } =
      s.enterFault c w := by
    rw [← hresponses]; rfl
  refine ⟨?_, ?_, c.code_range⟩
  · rw [hrest]
    exact s.enterFault_leaves c w
  · rw [State.answer, hresponses]
    rfl

/-! ### The causes of `CONFIG` -/

section
variable (s : State)

theorem t2bBody_eq_config_iff (rd ra : XReg) :
    t2bBody rd ra s = .error .config ↔ tickIllegal s ∨ s.cur.br = 0 :=
  eq_error_iff_of_check (t2bBody_eq s rd ra) .ok List.not_mem_nil

theorem seekBody_eq_config_iff (ra : XReg) :
    seekBody ra s = .error .config ↔ s.cur.ppb = 0 ∨ geometryIllegal s.cur :=
  eq_error_iff_of_check (seekBody_eq s ra) .ok List.not_mem_nil

theorem advBody_eq_config_iff : advBody s = .error .config ↔ geometryIllegal s.cur :=
  eq_error_iff_of_check (advBody_eq s) .ok List.not_mem_nil

theorem packspBody_eq_config_iff (w : Nat) :
    packspBody w s = .error .config ↔ s.splen.toNat < 1 ∨ 64 < s.splen.toNat := by
  rw [eq_error_iff_of_check (x := packspBody w s) rfl .range (by decide), Bool.or_eq_true,
    decide_eq_true_eq, decide_eq_true_eq]

theorem pwlqBody_eq_config_iff (rd ra : XReg) (up : Bool) :
    pwlqBody rd ra up s = .error .config ↔ quantiserIllegal s :=
  eq_error_iff_of_check (pwlqBody_eq s rd ra up) .ok List.not_mem_nil

theorem tileBody_eq_config_iff (rd ra rb rc re : XReg) :
    tileBody rd ra rb rc re s = .error .config ↔ s.xreg rb = 0 :=
  (eq_error_iff_of_check rfl .range (by decide)).trans (s.xval_eq_zero_iff rb)

theorem ilvwBody_eq_config_iff (ra rb : XReg) :
    ilvwBody ra rb s = .error .config ↔ interleaverIllegal s.cur :=
  (eq_error_iff_of_check rfl .range (by decide)).trans (badInterleaver_iff s.cur)

theorem ilvrBody_eq_config_iff (rd rb : XReg) :
    ilvrBody rd rb s = .error .config ↔ interleaverIllegal s.cur :=
  (eq_error_iff_of_check rfl .range (by decide)).trans (badInterleaver_iff s.cur)

theorem modBody_eq_config_iff (hsig : ¬ signalUnsupported s) (rd ra rb : XReg) :
    modBody rd ra rb s = .error .config ↔ modConfigIllegal s :=
  eq_error_iff_of_check ((modBody_eq s rd ra rb).trans (if_neg hsig))
    (.check (.check (.check (.check .ok)))) (by decide)

theorem modofsBody_eq_config_iff (hsig : ¬ signalUnsupported s) (rd : XReg) :
    modofsBody rd s = .error .config ↔ tickIllegal s :=
  eq_error_iff_of_check ((modofsBody_eq s rd).trans (if_neg hsig)) .ok List.not_mem_nil

end

/-- Settles O18: status 6 is the cause `CONFIG` of the command's checks, which one check of each command names. -/
theorem configCauses : Obligations.ConfigCauses := by
  intro s h
  have hstatus {i : Instr} {body : State → Except Cause State} {out : Prop}
      (hbody : body s = .error .config ↔ out)
      (he : exec i s = .next (s.runCommand (encode i) body)) : completion i s = some 6 ↔ out :=
    (completion_eq_code_iff (c := .config) h he).trans hbody
  refine ⟨fun rd ra => ?_, fun ra => ?_, ?_, fun w => ?_, fun rd ra up => ?_, fun rd ra rb rc re => ?_,
    fun ra rb => ?_, fun rd rb => ?_, fun hsig rd ra rb => ?_, fun hsig rd => ?_⟩
  · exact hstatus (t2bBody_eq_config_iff s rd ra) rfl
  · exact hstatus (seekBody_eq_config_iff s ra) rfl
  · exact hstatus (advBody_eq_config_iff s) rfl
  · exact hstatus (packspBody_eq_config_iff s w.toNat) rfl
  · exact hstatus (pwlqBody_eq_config_iff s rd ra up) rfl
  · exact hstatus (tileBody_eq_config_iff s rd ra rb rc re) rfl
  · exact hstatus (ilvwBody_eq_config_iff s ra rb) rfl
  · exact hstatus (ilvrBody_eq_config_iff s rd rb) rfl
  · exact hstatus (modBody_eq_config_iff s hsig rd ra rb) rfl
  · exact hstatus (modofsBody_eq_config_iff s hsig rd) rfl

end Sys2Proof.Machine
